-- ==== Sys2Proof/Word.lean ====
section
/-! DEFINITION. The machine's word: the byte of the JPEG stream (spec R6), and the index of a table slot (R5). -/

namespace Sys2Proof

/-- An unsigned 8-bit value, the unit of every buffer (spec R6). -/
abbrev Byte := BitVec 8

/-- An unsigned 16-bit value: `X`, `Y`, `Ri` and the entries of a quantisation table (spec R7, R30, R31, R33). -/
abbrev Half := BitVec 16

/-- The number of one of the four slots of a table file, or of a frame component (spec R5: `NQT = NHT = MAXC = 4`). -/
abbrev Slot := Fin 4

end Sys2Proof
end

