-- ==== Sys2Proof/Config.lean ====
section
/-! DEFINITION. What an implementation fixes: the parameters of spec R5, the refusal reasons, and the free values of the
model. -/

namespace Sys2Proof.Machine

/-- The refusal reasons of spec R323. -/
inductive Reason where
  | badPhase
  | badOperand
  | tableIdOutOfRange
  | tableClass
  | badFrameParams
  | badScanParams
  | huffmanOversubscribed
  | dcSizeOutOfRange
  | acIndexOverflow
  | scanCount
  | missingTable
  | dcDiffOutOfRange
  | acMagnitudeOutOfRange
  | divideByZero
  /-- never raised here: `OUT`, `SEG` and `PLANE` are unbounded (R73, R323) -/
  | outOfMemory
  /-- never raised here: coefficients are unbounded integers (R5, R323) -/
  | coefOverflow
deriving DecidableEq, Repr, Inhabited

end Sys2Proof.Machine

namespace Sys2Proof.Config

/-- `SAMPLE_PRECISION`: the only sample precision SOF0 may carry (spec R5, R189). -/
def samplePrecision : Byte := 8

/-- `READ_BITS_MAX`: the most bits of one `read_bits` (spec R5, R133). -/
def readBitsMax : Nat := 16

/-- `WRITE_BITS_MAX`: the most bits of one `write_bits` (spec R5, R142). -/
def writeBitsMax : Nat := 16

/-- `HUFF_MAXLEN`: the longest Huffman code (spec R5, R96). -/
def huffMaxLen : Nat := 16

/-- `DC_S_MAX`: the largest DC size category (spec R5, R93). -/
def dcSizeMax : Nat := 11

/-- `AC_S_MAX`: the largest AC size category (spec R5, R255). -/
def acSizeMax : Nat := 15

/-- `MAXC`: the most components of a frame and of a scan (spec R5, R189, R193). -/
def maxComponents : Nat := 4

/-- `HV_MAX`: the largest sampling factor (spec R5, R189). -/
def samplingMax : Nat := 4

/-- The slots of a table file, and the possible frame components, in ascending order (spec R5: `NQT = NHT = MAXC = 4`). -/
def slots : List Slot := [0, 1, 2, 3]

/-- The situations a rule excludes on entry of a procedure, and gives neither an effect nor a refusal reason for. -/
inductive Excluded where
  /-- `br_attach(p)` with `p > INLEN` (spec R130) -/
  | attachOutsideBuffer
  /-- `put_raw` while bits are gathered (spec R144: requires `wcnt = 0`) -/
  | bitsGathered
  /-- a procedure that reads a scan record when there is none (spec R197, R245, R246, R249, R250) -/
  | noScanRecord
  /-- STUFF where the bytes at `rp` are not `FF 00` (spec R91) -/
  | notAnEscape
  /-- PAD of another length than the bits left of the byte (spec R100) -/
  | padMismatch
deriving DecidableEq, Repr

/-- The reason recorded when a procedure is refused for an excluded situation. R9 makes the run a refusal, and no row of
R323 names its reason: a free value, DESIGN CHOICE, log entry 10. Safe: nothing can be proved of which reason it is. -/
opaque unstatedReason : Excluded → Machine.Reason

/-- `extend(bits, S)` with `S > 15` or `bits ≥ 2^S`, where R202 states no result: a free value, DESIGN CHOICE, log entry
22. Safe: nothing can be proved of it. -/
opaque extendUnstated : Nat → Nat → Int

/-- `magbits(v, S)` with `S ≠ size(v)`, where R254 states no result: a free value, DESIGN CHOICE, log entry 22. Safe. -/
opaque magbitsUnstated : Int → Nat → Nat

/-- `rdiv(a, 0)`, where R283 states no result: a free value, DESIGN CHOICE, log entry 22. Safe. -/
opaque rdivByZero : Int → Int

/-- `qround(D, 0)`, where R295 states no result: a free value, DESIGN CHOICE, log entry 22. Safe. -/
opaque qroundByZero : Int → Int

/-- The codes `build_table` returns for another number of values than `Σ counts`, where R161 states no result: a free
value, DESIGN CHOICE, log entry 22. Safe. -/
opaque codesUnstated : Vector Byte 16 → List Byte → List (Nat × Nat)

/-- `be32(n)` for `n ≥ 2^32`, where R300 states no value: four free bytes, DESIGN CHOICE, log entry 22. Safe. -/
opaque lengthUnstated : Nat → Vector Byte 4

/-- What opening a ciphertext gives (spec R307). -/
inductive Opened where
  | plaintext (bytes : List Byte)
  | authenticationFailed
  | malformedCiphertext
deriving DecidableEq, Repr

/-- An external authenticated encryption scheme: the ciphertext of a plaintext under a 16-byte salt and a passphrase, what
opening a ciphertext gives, and the law R307 requires of the pair. -/
structure Scheme where
  aead : Vector Byte 16 → List Byte → List Byte → List Byte
  openAead : Vector Byte 16 → List Byte → List Byte → Opened
  opens : ∀ salt pw plaintext, openAead salt pw (aead salt pw plaintext) = .plaintext plaintext
  rejects : ∀ salt pw pw' plaintext, pw' ≠ pw →
    openAead salt pw' (aead salt pw plaintext) = .authenticationFailed

/-- The external scheme: any one there is (spec R308: an uninterpreted pair that satisfies R307's law). DESIGN CHOICE, log
entry 14. Safe: nothing but the law can be proved of it. The argument shows that the
law can be held and says nothing of the result. -/
opaque anyScheme [Inhabited Scheme] : Scheme

/-- The length of a passphrase in unary, then the passphrase: how `Scheme.sample` marks whose ciphertext it is. -/
def wrapPassphrase : List Byte → List Byte
  | [] => [0]
  | b :: bs => 1 :: b :: wrapPassphrase bs

/-- The passphrase in front of a marked ciphertext, and what follows it. -/
def unwrapPassphrase : List Byte → Option (List Byte × List Byte)
  | m :: b :: rest => if m = 0 then some ([], b :: rest) else (unwrapPassphrase rest).map fun p => (b :: p.1, p.2)
  | [m] => if m = 0 then some ([], []) else none
  | [] => none

theorem unwrapPassphrase_wrap (pw text : List Byte) :
    unwrapPassphrase (wrapPassphrase pw ++ text) = some (pw, text) := by
  induction pw with
  | nil => cases text <;> simp [wrapPassphrase, unwrapPassphrase]
  | cons b bs ih => simp [wrapPassphrase, unwrapPassphrase, ih]

/-- A scheme that satisfies the law, so that one exists; the model does not use its functions. -/
def Scheme.sample : Scheme where
  aead _ pw text := wrapPassphrase pw ++ text
  openAead _ pw text :=
    match unwrapPassphrase text with
    | some (pw', plaintext) => if pw = pw' then .plaintext plaintext else .authenticationFailed
    | none => .malformedCiphertext
  opens _ pw text := by simp [unwrapPassphrase_wrap]
  rejects _ pw pw' text h := by simp [unwrapPassphrase_wrap, h]

/-- The external scheme of this host (spec R308). -/
def scheme : Scheme := @anyScheme ⟨Scheme.sample⟩

end Sys2Proof.Config
end

