-- ==== Sys2Proof/Machine/Bits.lean ====
section
/-! DEFINITION. Bit fields, byte order and the integer helpers of the notation (spec R6, R7, R61 to R63). -/

namespace Sys2Proof

/-- The high nibble `b[7:4]` (spec R6, R63). -/
def hiNibble (b : Byte) : BitVec 4 := b.extractLsb' 4 4

/-- The low nibble `b[3:0]` (spec R6, R63). -/
def loNibble (b : Byte) : BitVec 4 := b.extractLsb' 0 4

/-- Two nibbles as one byte, the first named in the high nibble (spec R63). -/
def nibbles (hi lo : BitVec 4) : Byte := hi ++ lo

/-- `be16`: two bytes as a big-endian number, the byte at the lower address first (spec R8, R62). -/
def be16 (first second : Byte) : Half := first ++ second

/-- A 16-bit field as its two bytes, big-endian (spec R62). -/
def be16Bytes (h : Half) : List Byte := [h.extractLsb' 8 8, h.extractLsb' 0 8]

/-- A segment length or another number below `2^16` as its two bytes, big-endian (spec R62). -/
def natBytes16 (n : Nat) : List Byte := be16Bytes (BitVec.ofNat 16 n)

/-- A number below `2^32` as its four bytes, big-endian (spec R300: `len: u32 big-endian`). -/
def natBytes32 (n : Nat) : List Byte :=
  [BitVec.ofNat 8 (n / 2 ^ 24), BitVec.ofNat 8 (n / 2 ^ 16), BitVec.ofNat 8 (n / 2 ^ 8), BitVec.ofNat 8 n]

/-- `ceil_div(a, b)` of spec R7. -/
def ceilDiv (a b : Nat) : Nat := (a + b - 1) / b

/-- `bitlen(n)` of spec R7: the number of bits of `n`. -/
def bitlen (n : Nat) : Nat := if n = 0 then 0 else Nat.log2 n + 1

/-- A number from its bits, the first bit the most significant (spec R61). -/
def bitsToNat (bs : List Bool) : Nat := bs.foldl (fun v b => 2 * v + b.toNat) 0

/-- The low `n` bits of a number, the most significant of them first (spec R61, R142). -/
def natToBits (value : Nat) : Nat → List Bool
  | 0 => []
  | n + 1 => value.testBit n :: natToBits value n

/-- The bits of a byte string, each byte's most significant bit first (spec R61, R300). -/
def bytesToBits (bs : List Byte) : List Bool := bs.flatMap fun b => natToBits b.toNat 8

end Sys2Proof
end

