-- ==== Sys2Proof/Syntax.lean ====
section
/-! DEFINITION. The instructions: one constructor for every row of spec/opcode_table.json, in the table's order. -/

namespace Sys2Proof

/-- The class of a Huffman table: `Tc = 0` is DC, `Tc = 1` is AC (spec R34). -/
inductive TableClass where
  | dc
  | ac
deriving DecidableEq, Repr

/-- One command as the host issues it: the 8-bit command code and the operands that stand beside it (spec R99).
An operand that the code does not use is ignored. -/
structure Request where
  /-- the command code -/
  code : Byte
  /-- `IN` of `DECODE`; its length is `INLEN` -/
  buf : List Byte
  /-- `c`, the component index -/
  c : Nat
  /-- `by`, the block row -/
  row : Nat
  /-- `bx`, the block column -/
  col : Nat
  /-- `i`, the zigzag index -/
  i : Nat
  /-- `v`, the coefficient of `WRCOEF` -/
  v : Int
  /-- `D[0..63]` of `QUANT` -/
  d : Vector Int 64
deriving DecidableEq, Repr

/-- Every instruction of the opcode table: host commands (level C), markers (level M), entropy symbols and
byte-level escapes (level S), the block's internal procedures (P) and the host agent's procedures (H); spec R80. -/
inductive Instr where
  -- level C: host commands (R99)
  | reset
  | decode (buf : List Byte)
  | encode
  | dequant (c row col : Nat)
  | quant (c row col : Nat) (d : Vector Int 64)
  | rdcoef (c row col i : Nat)
  | wrcoef (c row col i : Nat) (v : Int)
  | reservedCommand (code : Byte)
  -- level M: markers (R82); a segment's bytes are read by the marker's own rule
  | soi
  | eoi
  | sof0
  | sof1
  | sof2
  | sof3
  | sof5
  | sof6
  | sof7
  | sof9
  | sof10
  | sof11
  | sof13
  | sof14
  | sof15
  | jpg
  | dht
  | dac
  | rst (n : BitVec 3)
  | sos
  | dqt
  | dri
  | app (n : BitVec 4)
  | com
  | dnl
  | dhp
  | exp
  | jpgLow (n : BitVec 3)
  | jpgMid (n : BitVec 2)
  | jpgHigh (n : BitVec 1)
  | illegalMarker (m : Byte)
  | notACode
  | fill
  -- level S: entropy symbols and escapes (R91 to R95)
  | dcSize (s : Fin 12)
  | illegalDc (sym : Byte)
  | eob
  | zrl
  | acRunSize (r s : BitVec 4)
  | stuff
  | pad (n : Nat)
  -- P: internal procedures of the block
  | brAttach (p : Nat)
  | fetchByte
  | readBit
  | readBits (n : Nat)
  | peekMarker
  | alignToByte
  | readMarker
  | bwReset
  | emitByte (b : Byte)
  | writeBits (value n : Nat)
  | flushWithPadding
  | putRaw (bytes : List Byte)
  | buildTable (counts : Vector Byte 16) (values : List Byte)
  | huffDecode (tc : TableClass) (th : Slot)
  | huffEncode (tc : TableClass) (th : Slot) (sym : Byte)
  | checkSoi
  | walk
  | readSegment
  | decodeScan
  | decodeBlock (ci td ta : Slot)
  | decodeDc (ci td : Slot)
  | decodeAc (ta : Slot)
  | extend (bits s : Nat)
  | restart
  | emitSoi
  | emitPreserved
  | emitDqt
  | emitDht
  | emitSof0
  | emitDri
  | emitSos
  | encodeScan
  | encodeBlock (ci td ta : Slot)
  | encodeDc (ci td : Slot)
  | size (v : Int)
  | magbits (v : Int) (s : Nat)
  | encodeAc (ta : Slot)
  | emitRestart
  | finalize
  | rdiv (a : Int) (q : Nat)
  -- H: procedures of the host agent
  | qround (d : Int) (delta : Nat)
  | embedPair (a1 a2 : Int) (b1 b2 : Bool)
  | extractPair (a1 a2 : Int)
  | frame (payload : List Byte)
  | embed (payload : List Byte)
  | extract
deriving DecidableEq, Repr

end Sys2Proof
end

