-- ==== Sys2Proof/WellFormed.lean ====
section
/-! DEFINITION. The operands an instruction may carry. -/

namespace Sys2Proof

/-- The operand domains the spec states: the reserved command codes (R99), the illegal marker codes (R195), the
symbols a DC and an AC position give to each row (R93, R94), the pad lengths (R100), and the domains of the pure
procedures (R161, R202, R254, R283, R295, R300). `exec` has a meaning outside them too: what the rule says of the operand
that does not belong there, or a free result (log entry 22). -/
def Instr.wellFormed : Instr → Bool
  | .reservedCommand code => code.toNat = 0 || 8 ≤ code.toNat
  | .illegalMarker m => 1 ≤ m.toNat && m.toNat ≤ 0xBF
  | .illegalDc sym => 12 ≤ sym.toNat
  | .acRunSize r s => !(s = 0 && (r = 0 || r = 15))
  | .pad n => 1 ≤ n && n ≤ 7
  | .buildTable counts values => values.length = (counts.toList.map BitVec.toNat).sum
  | .extend bits s => s ≤ 15 && bits < 2 ^ s
  | .magbits v s => s = bitlen v.natAbs
  | .rdiv _ q => 1 ≤ q
  | .qround _ delta => 1 ≤ delta
  | .frame payload => payload.length < 2 ^ 32
  | .reset | .decode _ | .encode | .dequant _ _ _ | .quant _ _ _ _ | .rdcoef _ _ _ _ | .wrcoef _ _ _ _ _ => true
  | .soi | .eoi | .sof0 | .sof1 | .sof2 | .sof3 | .sof5 | .sof6 | .sof7 | .sof9 | .sof10 | .sof11 => true
  | .sof13 | .sof14 | .sof15 | .jpg | .dht | .dac | .rst _ | .sos | .dqt | .dri | .app _ | .com | .dnl => true
  | .dhp | .exp | .jpgLow _ | .jpgMid _ | .jpgHigh _ | .notACode | .fill => true
  | .dcSize _ | .eob | .zrl | .stuff => true
  | .brAttach _ | .fetchByte | .readBit | .readBits _ | .peekMarker | .alignToByte | .readMarker => true
  | .bwReset | .emitByte _ | .writeBits _ _ | .flushWithPadding | .putRaw _ => true
  | .huffDecode _ _ | .huffEncode _ _ _ | .checkSoi | .walk | .readSegment | .decodeScan => true
  | .decodeBlock _ _ _ | .decodeDc _ _ | .decodeAc _ | .restart => true
  | .emitSoi | .emitPreserved | .emitDqt | .emitDht | .emitSof0 | .emitDri | .emitSos => true
  | .encodeScan | .encodeBlock _ _ _ | .encodeDc _ _ | .size _ | .encodeAc _ | .emitRestart | .finalize => true
  | .embedPair _ _ _ _ | .extractPair _ _ | .embed _ | .extract => true

end Sys2Proof
end

