-- ==== Sys2Proof/Decode.lean ====
section
/-! DEFINITION. The decoder of the three encoded levels (commands, markers, entropy symbols), total on any bytes and
rejecting by name, and after it the encoder. The procedures of the block and of the host have no encoding (spec R80). -/

namespace Sys2Proof

/-- What the block decodes an instruction from. The level is given by the place the bits stand in, never by the bits
(spec R80): a command port, a place where the walk expects a marker, a Huffman symbol in a DC or an AC position, a
byte position of entropy-coded data, or the bits left before a marker. -/
inductive Code where
  | command (r : Request)
  | marker (bytes : List Byte)
  | dcSymbol (sym : Byte)
  | acSymbol (sym : Byte)
  | dataBytes (bytes : List Byte)
  | padding (bits : List Bool)
deriving DecidableEq, Repr

/-- Why the decoder reads no instruction. -/
inductive Reject where
  /-- the bytes end before the instruction is complete (R136, R131: `UnexpectedEndOfStream`) -/
  | endOfBytes
  /-- a marker was expected and the first byte is not `0xFF` (R136: `InvalidMarker`) -/
  | notAMarker
  /-- the data bytes are not the escape `FF 00` (R91): they are data, or a marker -/
  | notAnEscape
  /-- not 1 to 7 one-bits (R100: `PAD(n)`) -/
  | notPadding
deriving DecidableEq, Repr

/-- What the decoder answers. -/
inductive Decoded where
  | instr (i : Instr)
  | rejected (r : Reject)
deriving DecidableEq, Repr

/-- Level C: the command code and the operands its row names (spec R99). Every other code is reserved. -/
def decodeCommand (r : Request) : Instr :=
  match r.code.toNat with
  | 1 => .reset
  | 2 => .decode r.buf
  | 3 => .encode
  | 4 => .dequant r.c r.row r.col
  | 5 => .quant r.c r.row r.col r.d
  | 6 => .rdcoef r.c r.row r.col r.i
  | 7 => .wrcoef r.c r.row r.col r.i r.v
  | _ => .reservedCommand r.code

/-- One row of the marker table: the code bytes `m` with `m &&& mask = value`, and the instruction. -/
structure MarkerRow where
  mask : Byte
  value : Byte
  build : Byte → Instr

/-- The rows of spec/opcode_table.json at level M that have a match and a mask (spec R82). -/
def markerRows : List MarkerRow :=
  [⟨0xFF, 0xD8, fun _ => .soi⟩, ⟨0xFF, 0xD9, fun _ => .eoi⟩, ⟨0xFF, 0xC0, fun _ => .sof0⟩,
   ⟨0xFF, 0xC1, fun _ => .sof1⟩, ⟨0xFF, 0xC2, fun _ => .sof2⟩, ⟨0xFF, 0xC3, fun _ => .sof3⟩,
   ⟨0xFF, 0xC5, fun _ => .sof5⟩, ⟨0xFF, 0xC6, fun _ => .sof6⟩, ⟨0xFF, 0xC7, fun _ => .sof7⟩,
   ⟨0xFF, 0xC9, fun _ => .sof9⟩, ⟨0xFF, 0xCA, fun _ => .sof10⟩, ⟨0xFF, 0xCB, fun _ => .sof11⟩,
   ⟨0xFF, 0xCD, fun _ => .sof13⟩, ⟨0xFF, 0xCE, fun _ => .sof14⟩, ⟨0xFF, 0xCF, fun _ => .sof15⟩,
   ⟨0xFF, 0xC8, fun _ => .jpg⟩, ⟨0xFF, 0xC4, fun _ => .dht⟩, ⟨0xFF, 0xCC, fun _ => .dac⟩,
   ⟨0xF8, 0xD0, fun m => .rst (m.extractLsb' 0 3)⟩, ⟨0xFF, 0xDA, fun _ => .sos⟩, ⟨0xFF, 0xDB, fun _ => .dqt⟩,
   ⟨0xFF, 0xDD, fun _ => .dri⟩, ⟨0xF0, 0xE0, fun m => .app (m.extractLsb' 0 4)⟩, ⟨0xFF, 0xFE, fun _ => .com⟩,
   ⟨0xFF, 0xDC, fun _ => .dnl⟩, ⟨0xFF, 0xDE, fun _ => .dhp⟩, ⟨0xFF, 0xDF, fun _ => .exp⟩,
   ⟨0xF8, 0xF0, fun m => .jpgLow (m.extractLsb' 0 3)⟩, ⟨0xFC, 0xF8, fun m => .jpgMid (m.extractLsb' 0 2)⟩,
   ⟨0xFE, 0xFC, fun m => .jpgHigh (m.extractLsb' 0 1)⟩,
   ⟨0xFF, 0x00, fun _ => .notACode⟩, ⟨0xFF, 0xFF, fun _ => .fill⟩]

/-- Level M: the instruction of a code byte. A byte of no row is an illegal marker: `0x01 … 0xBF` (spec R82, R195). -/
def decodeMarkerCode (m : Byte) : Instr :=
  match markerRows.find? (fun row => m &&& row.mask == row.value) with
  | some row => row.build m
  | none => .illegalMarker m

/-- Level M: the bytes at a place where a marker is expected: `0xFF`, then the code byte (spec R81). -/
def decodeMarker : List Byte → Decoded
  | [] => .rejected .endOfBytes
  | b :: rest =>
    if b = 0xFF then
      match rest with
      | [] => .rejected .endOfBytes
      | m :: _ => .instr (decodeMarkerCode m)
    else .rejected .notAMarker

/-- Level S, a DC position: the symbol is the size category, legal up to 11 (spec R93). -/
def decodeDcSymbol (sym : Byte) : Instr :=
  if h : sym.toNat < 12 then .dcSize ⟨sym.toNat, h⟩ else .illegalDc sym

/-- Level S, an AC position: first EOB, then ZRL, otherwise run and size (spec R94). -/
def decodeAcSymbol (sym : Byte) : Instr :=
  if sym = 0x00 then .eob
  else if sym = 0xF0 then .zrl
  else .acRunSize (hiNibble sym) (loNibble sym)

/-- The escape of entropy-coded data: `0xFF 0x00` stands for the data byte `0xFF` (spec R91). -/
def decodeDataBytes : List Byte → Decoded
  | [] => .rejected .endOfBytes
  | [b] => .rejected (if b = 0xFF then .endOfBytes else .notAnEscape)
  | b :: b' :: _ => if b = 0xFF && b' = 0x00 then .instr .stuff else .rejected .notAnEscape

/-- `PAD(n)`: 1 to 7 one-bits before a marker (spec R100, R143). -/
def decodePadding (bits : List Bool) : Decoded :=
  if bits.all id && 1 ≤ bits.length && bits.length ≤ 7 then .instr (.pad bits.length) else .rejected .notPadding

/-- The decoder. -/
def decode : Code → Decoded
  | .command r => .instr (decodeCommand r)
  | .marker bytes => decodeMarker bytes
  | .dcSymbol sym => .instr (decodeDcSymbol sym)
  | .acSymbol sym => .instr (decodeAcSymbol sym)
  | .dataBytes bytes => decodeDataBytes bytes
  | .padding bits => decodePadding bits

/-- A request with a code and every operand zero or empty. -/
def Request.bare (code : Byte) : Request :=
  { code, buf := [], c := 0, row := 0, col := 0, i := 0, v := 0, d := Vector.replicate 64 0 }

/-- A marker with code byte `m` and no fill bytes, as the encoder writes it (spec R81, R242). -/
def markerCode (m : Byte) : Code := .marker [0xFF, m]

/-- The encoder, from the same tables (spec R82, R91 to R94, R99). `none` for a procedure, which has no encoding. -/
def encode : Instr → Option Code
  | .reset => some (.command (Request.bare 1))
  | .decode buf => some (.command { Request.bare 2 with buf })
  | .encode => some (.command (Request.bare 3))
  | .dequant c row col => some (.command { Request.bare 4 with c, row, col })
  | .quant c row col d => some (.command { Request.bare 5 with c, row, col, d })
  | .rdcoef c row col i => some (.command { Request.bare 6 with c, row, col, i })
  | .wrcoef c row col i v => some (.command { Request.bare 7 with c, row, col, i, v })
  | .reservedCommand code => some (.command (Request.bare code))
  | .soi => some (markerCode 0xD8)
  | .eoi => some (markerCode 0xD9)
  | .sof0 => some (markerCode 0xC0)
  | .sof1 => some (markerCode 0xC1)
  | .sof2 => some (markerCode 0xC2)
  | .sof3 => some (markerCode 0xC3)
  | .sof5 => some (markerCode 0xC5)
  | .sof6 => some (markerCode 0xC6)
  | .sof7 => some (markerCode 0xC7)
  | .sof9 => some (markerCode 0xC9)
  | .sof10 => some (markerCode 0xCA)
  | .sof11 => some (markerCode 0xCB)
  | .sof13 => some (markerCode 0xCD)
  | .sof14 => some (markerCode 0xCE)
  | .sof15 => some (markerCode 0xCF)
  | .jpg => some (markerCode 0xC8)
  | .dht => some (markerCode 0xC4)
  | .dac => some (markerCode 0xCC)
  | .rst n => some (markerCode (0xD0 + n.zeroExtend 8))
  | .sos => some (markerCode 0xDA)
  | .dqt => some (markerCode 0xDB)
  | .dri => some (markerCode 0xDD)
  | .app n => some (markerCode (0xE0 + n.zeroExtend 8))
  | .com => some (markerCode 0xFE)
  | .dnl => some (markerCode 0xDC)
  | .dhp => some (markerCode 0xDE)
  | .exp => some (markerCode 0xDF)
  | .jpgLow n => some (markerCode (0xF0 + n.zeroExtend 8))
  | .jpgMid n => some (markerCode (0xF8 + n.zeroExtend 8))
  | .jpgHigh n => some (markerCode (0xFC + n.zeroExtend 8))
  | .illegalMarker m => some (markerCode m)
  | .notACode => some (markerCode 0x00)
  | .fill => some (markerCode 0xFF)
  | .dcSize s => some (.dcSymbol (BitVec.ofNat 8 s.val))
  | .illegalDc sym => some (.dcSymbol sym)
  | .eob => some (.acSymbol 0x00)
  | .zrl => some (.acSymbol 0xF0)
  | .acRunSize r s => some (.acSymbol (nibbles r s))
  | .stuff => some (.dataBytes [0xFF, 0x00])
  | .pad n => some (.padding (List.replicate n true))
  | .brAttach _ | .fetchByte | .readBit | .readBits _ | .peekMarker | .alignToByte | .readMarker => none
  | .bwReset | .emitByte _ | .writeBits _ _ | .flushWithPadding | .putRaw _ | .buildTable _ _ => none
  | .huffDecode _ _ | .huffEncode _ _ _ | .checkSoi | .walk | .readSegment | .decodeScan => none
  | .decodeBlock _ _ _ | .decodeDc _ _ | .decodeAc _ | .extend _ _ | .restart => none
  | .emitSoi | .emitPreserved | .emitDqt | .emitDht | .emitSof0 | .emitDri | .emitSos => none
  | .encodeScan | .encodeBlock _ _ _ | .encodeDc _ _ | .size _ | .magbits _ _ | .encodeAc _ => none
  | .emitRestart | .finalize | .rdiv _ _ => none
  | .qround _ _ | .embedPair _ _ _ _ | .extractPair _ _ | .frame _ | .embed _ | .extract => none

/-- The place a bare code byte of the opcode table is read at. The table's bits do not carry the level (spec R80), and
three rows share the bytes `0x00` and `0xF0` with rows of another level; here `0x01 … 0x07` are commands, `0x00` and
`0xF0` are the AC symbols EOB and ZRL, `0xC0` and above are markers, and the rest are reserved commands. DESIGN
CHOICE, log entry 3. Safe: `step` never asks it. -/
def tableCode (b : Byte) : Code :=
  if b = 0x00 || b = 0xF0 then .acSymbol b
  else if 0xC0 ≤ b.toNat then markerCode b
  else .command (Request.bare b)

/-- The instruction the decoder reads from a table row's bits (every row with bits has one byte of them). -/
def decodeTableWord (nbits w : Nat) : Option Instr :=
  if nbits = 8 then
    match decode (tableCode (BitVec.ofNat 8 w)) with
    | .instr i => some i
    | .rejected _ => none
  else none

end Sys2Proof
end

