-- ==== Sys2Proof/Machine/State.lean ====
section
/-! DEFINITION. The state of one JBC block (spec R20 to R41), the host's side of it, and the state after reset. Plain
data: every register, memory and table file the spec names, grouped as the spec groups them. -/

namespace Sys2Proof.Machine

/-- A step that stops the machine. It has no constructor: R9 gives every command and every procedure three ways to end, ok,
raise and refuse, and each of them is a next state. -/
inductive Fault where
deriving DecidableEq, Repr

/-- Why an instruction has no meaning in the model. The block's own refusals (spec R323) are not these: they are next
states, with `PHASE = REFUSED`. -/
inductive Refusal where
  /-- raised by `exec` for an instruction that has no meaning yet; safe: nothing is claimed of it -/
  | notModelled (mnemonic : String)
deriving DecidableEq, Repr

/-- `PHASE` (spec R27). -/
inductive Phase where
  | idle
  | busyDec
  | busyEnc
  | decoded
  | failed
  | refused
deriving DecidableEq, Repr

/-- The error kinds of spec R321. The block writes only the first ten to `ERR`; the last six are the host agent's
(R304). -/
inductive ErrKind where
  | none
  | unexpectedEndOfStream
  | invalidMarker
  | invalidHuffmanCode
  | invalidSegmentLength
  | missingRestartMarker
  | unsupportedMode
  | unsupportedPrecision
  | unsupportedArithmeticCoding
  | cancelled
  | payloadTooLarge
  | clampingExhausted
  | payloadTruncated
  | invalidLength
  | authenticationFailed
  | malformedCiphertext
deriving DecidableEq, Repr

/-- The input buffer and the reader registers (spec R21, R22). `INLEN` is the length of `inp`. -/
structure Reader where
  inp : List Byte
  rp : Nat
  racc : Byte
  rcnt : Nat
deriving DecidableEq, Repr

/-- The output buffer and the writer registers (spec R23). -/
structure Writer where
  out : List Byte
  wacc : Byte
  wcnt : Nat
deriving DecidableEq, Repr

/-- The working registers (spec R24 to R26). -/
structure Work where
  cb : Vector Int 64
  k : Nat
  pred : Vector Int 4
  mcu : Nat
  rstn : BitVec 3
deriving DecidableEq, Repr

/-- `PHASE`, `ERR`, `ERRPOS`, `RREASON` (spec R27, R29). -/
structure Status where
  phase : Phase
  err : ErrKind
  errpos : Nat
  rreason : Option Reason
deriving DecidableEq, Repr

/-- A component descriptor of the frame header (spec R31). -/
structure Comp where
  c : Byte
  h : BitVec 4
  v : BitVec 4
  tq : Slot
deriving DecidableEq, Repr

/-- `FRAME` (spec R31). `Nf` is the length of `comps`. -/
structure Frame where
  valid : Bool
  p : Byte
  y : Half
  x : Half
  comps : List Comp
deriving DecidableEq, Repr

/-- One component of a scan header: frame component and table ids (spec R32). -/
structure ScanComp where
  ci : Slot
  td : Slot
  ta : Slot
deriving DecidableEq, Repr

/-- A scan header record (spec R32). `Ns` is the length of `sc`. -/
structure Scan where
  sc : List ScanComp
  ss : Byte
  se : Byte
  ah : BitVec 4
  al : BitVec 4
deriving DecidableEq, Repr

/-- A slot of the quantisation table file (spec R33); `pq` is 1 for 16-bit entries. -/
structure QuantSlot where
  valid : Bool
  pq : BitVec 1
  q : Vector Half 64
deriving DecidableEq, Repr

/-- A slot of the Huffman table file, in canonical form (spec R34). -/
structure HuffSlot where
  valid : Bool
  counts : Vector Byte 16
  values : List Byte
deriving DecidableEq, Repr

/-- A record of the preserved-segment store (spec R36). -/
structure SegRecord where
  marker : Byte
  payload : List Byte
deriving DecidableEq, Repr

/-- The memory of coefficient cells, `PLANE`, as address and value pairs: addresses strictly rising, and no pair with
the value 0, which is what an unlisted cell reads as (spec R35: allocated with every cell 0). -/
abbrev Memory := List (Nat × Int)

/-- The stego image state and the sequencing flags (spec R27, R28, R30 to R36). `NSCAN` is the length of `scans`. -/
structure Image where
  fSoi : Bool
  fEoi : Bool
  ri : Half
  frame : Frame
  scans : List Scan
  qt : Vector QuantSlot 4
  htDc : Vector HuffSlot 4
  htAc : Vector HuffSlot 4
  plane : Memory
  seg : List SegRecord
deriving DecidableEq, Repr

/-- The level of the next instruction the block fetches (spec R80): a host command; a marker; the start of an MCU, where
a restart marker may be due; the DC symbol or an AC symbol of a data unit. Outside a running command it is `command`. -/
inductive Level where
  | command
  | marker
  | mcu
  | dc
  | ac
deriving DecidableEq, Repr

/-- A data unit of a scan: its component, its tables and its block of the plane (spec R197, R198). -/
structure DataUnit where
  ci : Slot
  td : Slot
  ta : Slot
  row : Nat
  col : Nat
deriving DecidableEq, Repr

/-- The running command's own variables, which the spec's pseudocode names or implies: the level, `mpos`, `lpos`
(preamble of 43_decoder.md), the fill bytes skipped before the marker at `rp` (R81), the data unit being decoded and
the ones left in its MCU (the loop variables `j`, `v`, `h` of R197). -/
structure Sequencer where
  level : Level
  mpos : Nat
  lpos : Nat
  fills : Nat
  du : DataUnit
  units : List DataUnit
deriving DecidableEq, Repr

/-- What a command or procedure returns to its caller (spec R9). -/
inductive Value where
  | none
  | bool (b : Bool)
  | nat (n : Nat)
  | int (v : Int)
  | byte (b : Byte)
  | marker (m : Option Byte)
  | bytes (bs : List Byte)
  | bits (bs : List Bool)
  | coefs (d : Vector Int 64)
  | codes (cs : List (Nat × Nat))
  | pair (p : Option (Int × Int))
deriving DecidableEq, Repr

/-- The host's side of the block: the commands it has issued, oldest first; the value of the `CANCEL` input at each
coming sampling point, 0 once the list is empty (spec R38, R328); the value last returned (R9, R99). -/
structure Port where
  requests : List Request
  cancel : List Bool
  result : Value
deriving DecidableEq, Repr

/-- The host agent's configuration (spec R290); `k` is `pairs_per_block`. -/
structure AgentConfig where
  delta : Nat
  k : Nat
  component : Byte
  skipZero : Bool
deriving DecidableEq, Repr

/-- How the host agent's last operation ended (spec R302 to R304): ended ok, failed with a kind and its context, or
refused to run (R290, R291). -/
inductive AgentStatus where
  | ok
  | failed (kind : ErrKind) (context : Nat)
  | refusedToRun
deriving DecidableEq, Repr

/-- The host agent (spec R290): outside the block, the environment of 46_host_dctdm.md. -/
structure Agent where
  config : AgentConfig
  status : AgentStatus
deriving DecidableEq, Repr

/-- The machine: the block's state (spec R20), the running command's variables, and the host's side. -/
structure State where
  reader : Reader
  writer : Writer
  work : Work
  status : Status
  image : Image
  walk : Sequencer
  port : Port
  agent : Agent
deriving DecidableEq, Repr

/-- Empty buffer, `rp = racc = rcnt = 0` (spec R41). -/
def Reader.reset : Reader := { inp := [], rp := 0, racc := 0, rcnt := 0 }

/-- Empty buffer, `wacc = wcnt = 0` (spec R41). -/
def Writer.reset : Writer := { out := [], wacc := 0, wcnt := 0 }

/-- `CB` all 0, `k = 1`, `PRED` all 0, `mcu = rstn = 0` (spec R41). -/
def Work.reset : Work :=
  { cb := Vector.replicate 64 0, k := 1, pred := Vector.replicate 4 0, mcu := 0, rstn := 0 }

/-- `IDLE`, no error, no reason (spec R41). -/
def Status.reset : Status := { phase := .idle, err := .none, errpos := 0, rreason := none }

/-- `valid = 0`, every other field 0, `Nf = 0` (spec R31, R41). -/
def Frame.reset : Frame := { valid := false, p := 0, y := 0, x := 0, comps := [] }

/-- An invalid slot (spec R41: `valid = 0`). The spec gives `Pq` and `Q` no reset value: DESIGN CHOICE 0, log entry 2.
Unsafe if a statement rested on them; no rule reads them while `valid = 0`. -/
def QuantSlot.reset : QuantSlot := { valid := false, pq := 0, q := Vector.replicate 64 0 }

/-- An invalid slot, the empty table (spec R34, R41). The spec gives `counts` and `values` of an invalid slot no reset
value: DESIGN CHOICE 0 and empty, log entry 2. Unsafe if a statement rested on them; no rule reads them while
`valid = 0`. -/
def HuffSlot.reset : HuffSlot := { valid := false, counts := Vector.replicate 16 0, values := [] }

/-- No frame, no scans, no tables, no planes, no segments (spec R41). -/
def Image.reset : Image :=
  { fSoi := false, fEoi := false, ri := 0, frame := Frame.reset, scans := [],
    qt := Vector.replicate 4 QuantSlot.reset, htDc := Vector.replicate 4 HuffSlot.reset,
    htAc := Vector.replicate 4 HuffSlot.reset, plane := [], seg := [] }

/-- No data unit: DESIGN CHOICE, log entry 2 (a model's own field). -/
def DataUnit.reset : DataUnit := { ci := 0, td := 0, ta := 0, row := 0, col := 0 }

/-- No command running: DESIGN CHOICE, log entry 2 (the model's own fields). -/
def Sequencer.reset : Sequencer :=
  { level := .command, mpos := 0, lpos := 0, fills := 0, du := DataUnit.reset, units := [] }

/-- No command issued, `CANCEL` held 0 (spec R351), nothing returned: DESIGN CHOICE, log entry 2 (the model's own
fields). -/
def Port.reset : Port := { requests := [], cancel := [], result := .none }

/-- The defaults of spec R290. -/
def AgentConfig.default : AgentConfig := { delta := 10, k := 8, component := 1, skipZero := false }

/-- The default configuration; nothing run yet. -/
def Agent.reset : Agent := { config := AgentConfig.default, status := .ok }

/-- The machine at power-on, which equals the state after `RESET` (spec R41, R351). -/
def State.reset : State :=
  { reader := Reader.reset, writer := Writer.reset, work := Work.reset, status := Status.reset,
    image := Image.reset, walk := Sequencer.reset, port := Port.reset, agent := Agent.reset }

end Sys2Proof.Machine
end

