-- ==== Sys2Proof/Machine/Memory.lean ====
section
/-! DEFINITION. The memory of coefficient cells: addresses, reading, writing, the canonical form (spec R35, R60, R65). -/

namespace Sys2Proof.Machine

/-- The model's flat address of `PLANE[c][by][bx][i]`. Every coordinate in range of any frame is below `2^16`
(`X, Y ≤ 65535`, factors of at most 15), so no two cells share an address (spec R60, R73). -/
def cellAddr (c row col i : Nat) : Nat := ((c * 65536 + row) * 65536 + col) * 64 + i

/-- The address of cell 0 of a block; its 64 cells follow. -/
def blockAddr (c row col : Nat) : Nat := cellAddr c row col 0

/-- What a cell that is not listed reads as: 0, since a plane is allocated with every cell 0 (spec R35, R189). -/
def Memory.unlisted : Int := 0

/-- The value of one cell. -/
def Memory.read : Memory → Nat → Int
  | [], _ => Memory.unlisted
  | (a', v) :: m, a => if a = a' then v else Memory.read m a

/-- The memory with one cell written. Writing what an unlisted cell reads as removes the pair. -/
def Memory.write : Memory → Nat → Int → Memory
  | [], a, v => if v = Memory.unlisted then [] else [(a, v)]
  | (a', v') :: m, a, v =>
    if a < a' then (if v = Memory.unlisted then (a', v') :: m else (a, v) :: (a', v') :: m)
    else if a = a' then (if v = Memory.unlisted then m else (a, v) :: m)
    else (a', v') :: Memory.write m a v

/-- Every listed address is above `low` and rising, and no listed value is the unlisted one. -/
def Memory.wfAbove (low : Option Nat) : Memory → Bool
  | [] => true
  | (a, v) :: m => (match low with | none => true | some l => l < a) && v != Memory.unlisted && Memory.wfAbove (some a) m

/-- The canonical form: addresses strictly rising, no pair equal to what an unlisted address reads as. -/
def Memory.wf (m : Memory) : Bool := Memory.wfAbove none m

/-- Writes consecutive cells from an address on. -/
def Memory.writeFrom (m : Memory) (a : Nat) : List Int → Memory
  | [] => m
  | v :: vs => Memory.writeFrom (m.write a v) (a + 1) vs

/-- A block's 64 cells (spec R65: a block load is 64 cell reads). -/
def Memory.readBlock (m : Memory) (c row col : Nat) : Vector Int 64 :=
  Vector.ofFn fun i : Fin 64 => m.read (blockAddr c row col + i.val)

/-- The memory with a block's 64 cells written (spec R65: a block store is 64 cell writes). -/
def Memory.writeBlock (m : Memory) (c row col : Nat) (cb : Vector Int 64) : Memory :=
  m.writeFrom (blockAddr c row col) cb.toList

end Sys2Proof.Machine
end

