-- ==== Sys2Proof/Machine/Operands.lean ====
section
/-! DEFINITION. The operand forms: frame geometry and block addresses (spec R31, R196, R198), component and table
lookups, and the magnitude bits that are the symbols' immediates (spec R95, R202, R253, R254). -/

namespace Sys2Proof.Machine

/-- The descriptor that stands for a component the frame does not have; no rule reads it. -/
def Comp.absent : Comp := { c := 0, h := 0, v := 0, tq := 0 }

/-- `COMP[ci]` (spec R31). -/
def Frame.comp (f : Frame) (ci : Nat) : Comp := f.comps.getD ci Comp.absent

/-- `Nf` (spec R31). -/
def Frame.nf (f : Frame) : Nat := f.comps.length

/-- `Hmax` (spec R196). -/
def Frame.hmax (f : Frame) : Nat := (f.comps.map fun c => c.h.toNat).foldl max 0

/-- `Vmax` (spec R196). -/
def Frame.vmax (f : Frame) : Nat := (f.comps.map fun c => c.v.toNat).foldl max 0

/-- `MCUcols` (spec R196). -/
def Frame.mcuCols (f : Frame) : Nat := ceilDiv f.x.toNat (8 * f.hmax)

/-- `MCUrows` (spec R196). -/
def Frame.mcuRows (f : Frame) : Nat := ceilDiv f.y.toNat (8 * f.vmax)

/-- The number of MCUs of a scan (spec R197). -/
def Frame.mcuCount (f : Frame) : Nat := f.mcuCols * f.mcuRows

/-- `BW[c]`, the columns of the stored grid (spec R196). -/
def Frame.bw (f : Frame) (c : Nat) : Nat := f.mcuCols * (f.comp c).h.toNat

/-- `BH[c]`, the rows of the stored grid (spec R196). -/
def Frame.bh (f : Frame) (c : Nat) : Nat := f.mcuRows * (f.comp c).v.toNat

/-- `NW[c]`, the columns of the nominal grid (spec R196). -/
def Frame.nw (f : Frame) (c : Nat) : Nat := ceilDiv (f.x.toNat * (f.comp c).h.toNat) (8 * f.hmax)

/-- `NH[c]`, the rows of the nominal grid (spec R196). -/
def Frame.nh (f : Frame) (c : Nat) : Nat := ceilDiv (f.y.toNat * (f.comp c).v.toNat) (8 * f.vmax)

/-- A block address a command may name: `c < Nf`, `by < BH[c]`, `bx < BW[c]` (spec R99, R282). -/
def Frame.hasBlock (f : Frame) (c row col : Nat) : Bool := c < f.nf && row < f.bh c && col < f.bw c

/-- A cell address a command may name (spec R99). -/
def Frame.hasCell (f : Frame) (c row col i : Nat) : Bool := f.hasBlock c row col && i ≤ 63

/-- The data units of one component in one MCU, `v` outer, `h` inner (spec R197, R198). -/
def componentUnits (f : Frame) (mcu : Nat) (s : ScanComp) : List DataUnit :=
  (List.range (f.comp s.ci).v.toNat).flatMap fun v =>
    (List.range (f.comp s.ci).h.toNat).map fun h =>
      { ci := s.ci, td := s.td, ta := s.ta,
        row := (mcu / f.mcuCols) * (f.comp s.ci).v.toNat + v,
        col := (mcu % f.mcuCols) * (f.comp s.ci).h.toNat + h }

/-- The data units of one MCU in scan order (spec R197). -/
def mcuUnits (f : Frame) (sc : List ScanComp) (mcu : Nat) : List DataUnit := sc.flatMap (componentUnits f mcu)

/-- The frame component with an id, the first one (spec R193; unique in a frame that R189 accepted). -/
def Frame.findComp (f : Frame) (cs : Byte) : Option Slot :=
  Config.slots.find? fun ci => (f.comps[ci.val]?).any fun c => c.c == cs

/-- The record that stands for `SCANS[0]` or for the last scan when there is none; the procedures that read one stop
before they look (`Config.Excluded.noScanRecord`). -/
def Scan.absent : Scan := { sc := [], ss := 0, se := 0, ah := 0, al := 0 }

/-- `SCANS[0]`, the record the encoder reads (spec R245 to R250). -/
def Image.scan0 (im : Image) : Scan := im.scans.headD Scan.absent

/-- The record just appended, which `decode_scan` reads (spec R197). -/
def Image.lastScan (im : Image) : Scan := im.scans.getLast?.getD Scan.absent

/-- `HT[tc][th]` (spec R34). -/
def Image.ht (im : Image) (tc : TableClass) (th : Slot) : HuffSlot :=
  match tc with
  | .dc => im.htDc[th]
  | .ac => im.htAc[th]

/-- `HT[tc][th] <- slot` (spec R34, R188). -/
def Image.setHt (im : Image) (tc : TableClass) (th : Slot) (slot : HuffSlot) : Image :=
  match tc with
  | .dc => { im with htDc := im.htDc.set th slot }
  | .ac => { im with htAc := im.htAc.set th slot }

/-- `QT[t] <- slot` (spec R33, R187). -/
def Image.setQt (im : Image) (t : Slot) (slot : QuantSlot) : Image := { im with qt := im.qt.set t slot }

/-- `extend(bits, S)`, the JPEG magnitude extension (spec R202). -/
def extend (bits s : Nat) : Int :=
  if s = 0 then 0
  else if bits < 2 ^ (s - 1) then (bits : Int) - (2 ^ s : Nat) + 1
  else bits

/-- `size(v)`, the size category (spec R253). -/
def size (v : Int) : Nat := bitlen v.natAbs

/-- `magbits(v, S)`, the magnitude bits (spec R254). -/
def magbits (v : Int) (s : Nat) : Nat := if 0 ≤ v then v.toNat else (v + (2 ^ s : Nat) - 1).toNat

/-- `rdiv(a, q)`: the integer nearest to `a/q`, ties away from zero (spec R283). -/
def rdiv (a : Int) (q : Nat) : Int := if 0 ≤ a then (2 * a + q) / (2 * q) else -((2 * -a + q) / (2 * q))

/-- `Tc` as the table class; the nibble is 0 or 1 (spec R86). -/
def classNibble : TableClass → BitVec 4
  | .dc => 0
  | .ac => 1

/-- A nibble or byte as a slot number, when it is below 4 (spec R5, R97). -/
def slotOf (n : Nat) : Option Slot := if h : n < 4 then some ⟨n, h⟩ else none

/-- A slot number as a nibble. -/
def slotNibble (t : Slot) : BitVec 4 := BitVec.ofNat 4 t.val

/-- A slot number as a byte. -/
def slotByte (t : Slot) : Byte := BitVec.ofNat 8 t.val

end Sys2Proof.Machine
end

