-- ==== Sys2Proof/Machine/Ops.lean ====
section
/-! DEFINITION. The shared operations: the outcome of a procedure (spec R9), taking an error or a refusal and the way
out of it (spec R323, R325 to R327), the input bytes, the phase and the returned value. -/

namespace Sys2Proof.Machine

/-- How a procedure ends when it does not end ok: `raise <Kind>(pos)` or `refuse(<Reason>)` (spec R8, R9). -/
inductive Stop where
  | raised (kind : ErrKind) (pos : Nat)
  | refused (reason : Reason)
deriving DecidableEq, Repr

/-- A procedure: from a state, ok with a value and a state, or a stop and the state the partial run left. There is no
catch: a stop propagates to the command (spec R9, R320). -/
abbrev Proc := EStateM Stop State

/-- `raise <Kind>(pos)` (spec R8). -/
def raise {α : Type} (kind : ErrKind) (pos : Nat) : Proc α := throw (.raised kind pos)

/-- `refuse(<Reason>)` (spec R8). -/
def refuse {α : Type} (reason : Reason) : Proc α := throw (.refused reason)

/-- The numeric code of an error kind (spec R321). -/
def ErrKind.code : ErrKind → Nat
  | .none => 0
  | .unexpectedEndOfStream => 1
  | .invalidMarker => 2
  | .invalidHuffmanCode => 3
  | .invalidSegmentLength => 4
  | .missingRestartMarker => 5
  | .unsupportedMode => 6
  | .unsupportedPrecision => 7
  | .unsupportedArithmeticCoding => 8
  | .cancelled => 9
  | .payloadTooLarge => 16
  | .clampingExhausted => 17
  | .payloadTruncated => 18
  | .invalidLength => 19
  | .authenticationFailed => 20
  | .malformedCiphertext => 21

/-- What a failure leaves of the writer: a command that was encoding discards its output (spec R259, R323, R325). -/
def Writer.afterStop (w : Writer) (phase : Phase) : Writer :=
  match phase with
  | .busyEnc => Writer.reset
  | .idle | .busyDec | .decoded | .failed | .refused => w

/-- Taking an error, the one trap entry of the block: `ERR <- Kind`, `ERRPOS <- pos`, `PHASE <- FAILED`, an encode's
output is discarded, control returns to the host. Nothing is saved and nothing is vectored (spec R325). The rest of
the state stays as the partial run left it: DESIGN CHOICE, log entry 5. -/
def takeError (kind : ErrKind) (pos : Nat) (s : State) : State :=
  { s with
    status := { s.status with phase := .failed, err := kind, errpos := pos }
    writer := s.writer.afterStop s.status.phase
    walk := { s.walk with level := .command }
    port := { s.port with result := .none } }

/-- Taking a refusal: `PHASE <- REFUSED`, `RREASON <- Reason`, an encode's output is discarded, `ERR` and `ERRPOS` keep
their values, control returns to the host (spec R323). -/
def takeRefusal (reason : Reason) (s : State) : State :=
  { s with
    status := { s.status with phase := .refused, rreason := some reason }
    writer := s.writer.afterStop s.status.phase
    walk := { s.walk with level := .command }
    port := { s.port with result := .none } }

/-- The way out of a failure: the block's state at the reset values. There is no return from an error (spec R326); only
`RESET` leaves `FAILED` and `REFUSED` (spec R327, R350). The host's side (commands issued, `CANCEL`, its own
configuration) is not the block's and stays. -/
def resetBlock (s : State) : State :=
  { reader := Reader.reset, writer := Writer.reset, work := Work.reset, status := Status.reset,
    image := Image.reset, walk := Sequencer.reset, port := { s.port with result := .none }, agent := s.agent }

/-- Taking the stop a procedure ended with. -/
def takeStop (e : Stop) (s : State) : State :=
  match e with
  | .raised kind pos => takeError kind pos s
  | .refused reason => takeRefusal reason s

/-- Returning a value to the caller (spec R9). -/
def State.returning (s : State) (v : Value) : State := { s with port := { s.port with result := v } }

/-- What a procedure run from the host's or a test's side answers: the state it leaves with the value it returned, or
the state after its stop was taken. Both are next states. -/
def settle {α : Type} (value : α → Value) : EStateM.Result Stop State α → Host.Outcome State Fault Refusal
  | .ok a s => .next (s.returning (value a))
  | .error e s => .next (takeStop e s)

/-- Runs a procedure as an instruction. -/
def runProc {α : Type} (value : α → Value) (p : Proc α) (s : State) : Host.Outcome State Fault Refusal :=
  settle value (p.run s)

/-- Runs a procedure that returns nothing as an instruction. -/
def runUnit (p : Proc Unit) (s : State) : Host.Outcome State Fault Refusal := runProc (fun _ => Value.none) p s

/-- A pure procedure as an instruction: the value is returned, nothing else changes. -/
def runPure (v : Value) (s : State) : Host.Outcome State Fault Refusal := .next (s.returning v)

/-- What a rule requires on entry of a procedure. A situation it excludes has no meaning and no error kind, so the run is
refused (spec R9, D4); which reason is recorded is open: DESIGN CHOICE, log entry 10. -/
def require (ok : Bool) (e : Config.Excluded) : Proc Unit :=
  if ok then return () else refuse (Config.unstatedReason e)

/-- `IN[p]`, if `p < INLEN` (spec R21: every rule checks the bound first). -/
def Reader.byte? (r : Reader) (p : Nat) : Option Byte := r.inp[p]?

/-- `INLEN` (spec R21). -/
def Reader.inlen (r : Reader) : Nat := r.inp.length

/-- Changes the reader registers. -/
def modifyReader (f : Reader → Reader) : Proc Unit := modify fun s => { s with reader := f s.reader }

/-- Changes the writer registers. -/
def modifyWriter (f : Writer → Writer) : Proc Unit := modify fun s => { s with writer := f s.writer }

/-- Changes the working registers. -/
def modifyWork (f : Work → Work) : Proc Unit := modify fun s => { s with work := f s.work }

/-- Changes the image state. -/
def modifyImage (f : Image → Image) : Proc Unit := modify fun s => { s with image := f s.image }

/-- Changes the running command's variables. -/
def modifyWalk (f : Sequencer → Sequencer) : Proc Unit := modify fun s => { s with walk := f s.walk }

/-- `PHASE <- p`, the level going with it. -/
def setPhase (p : Phase) (l : Level) : Proc Unit :=
  modify fun s => { s with status := { s.status with phase := p }, walk := { s.walk with level := l } }

/-- Samples `CANCEL` at a polling point; if it is 1 the command ends with `Cancelled` (spec R206, R260, R328). -/
def pollCancel (pos : State → Nat) : Proc Unit := do
  let s ← get
  set { s with port := { s.port with cancel := s.port.cancel.tail } }
  if s.port.cancel.headD false then raise .cancelled (pos s)

/-- `PRED[0..MAXC-1] <- 0` (spec R25). -/
def clearPred : Proc Unit := modifyWork fun w => { w with pred := Vector.replicate 4 0 }

end Sys2Proof.Machine
end

