-- ==== Sys2Proof/Machine/Flags.lean ====
section
/-! DEFINITION. The flags. The block has no arithmetic flags; it has the sequencing flags of the segment walk: `F_SOI`,
`FRAME.valid`, `NSCAN`, `F_EOI` (spec R28). -/

namespace Sys2Proof.Machine

/-- `NSCAN`, the count of scans decoded (spec R28, R32). -/
def Image.nscan (im : Image) : Nat := im.scans.length

/-- The SOI marker was accepted: `F_SOI <- 1` (spec R28, R181). -/
def acceptSoi : Proc Unit := modifyImage fun im => { im with fSoi := true }

/-- The EOI marker was accepted: `F_EOI <- 1` (spec R28, R194). -/
def acceptEoi : Proc Unit := modifyImage fun im => { im with fEoi := true }

/-- A SOF0 was accepted: `FRAME <- (valid = 1, …)`, and the planes are allocated with every cell 0 (spec R28, R189,
R196). -/
def acceptFrame (f : Frame) : Proc Unit :=
  modifyImage fun im => { im with frame := { f with valid := true }, plane := [] }

/-- A scan header was accepted: appended to `SCANS`, so that `NSCAN` rises by one (spec R28, R32, R193). -/
def acceptScan (sc : Scan) : Proc Unit := modifyImage fun im => { im with scans := im.scans ++ [sc] }

end Sys2Proof.Machine
end

