-- ==== Sys2Proof/Machine/Bitstream.lean ====
section
/-! DEFINITION. The bitstream unit: the bit reader over `IN` with destuffing and marker detection, the byte-level marker
reader, and the bit writer into `OUT` with stuffing and 1-padding (spec R130 to R145). -/

namespace Sys2Proof.Machine

/-- `br_attach(p)` (spec R130). -/
def brAttach (p : Nat) : Proc Unit := modifyReader fun r => { r with rp := p, racc := 0, rcnt := 0 }

/-- `fetch_byte()` (spec R131). A marker is never consumed: `rp` stays on its first `0xFF`. -/
def fetchByte : Proc Unit := do
  let r := (← get).reader
  match r.byte? r.rp with
  | none => raise .unexpectedEndOfStream r.rp
  | some b =>
    if b ≠ 0xFF then modifyReader fun r => { r with racc := b, rp := r.rp + 1, rcnt := 8 }
    else
      match r.byte? (r.rp + 1) with
      | none => raise .unexpectedEndOfStream r.rp
      | some b' =>
        if b' = 0x00 then modifyReader fun r => { r with racc := 0xFF, rp := r.rp + 2, rcnt := 8 }
        else raise .unexpectedEndOfStream r.rp

/-- `read_bit()` (spec R132). -/
def readBit : Proc Bool := do
  if (← get).reader.rcnt = 0 then fetchByte
  modifyReader fun r => { r with rcnt := r.rcnt - 1 }
  let r := (← get).reader
  return r.racc.getLsbD r.rcnt

/-- The loop of `read_bits`: `n` more bits after the value `v` (spec R133). -/
def readBitsFrom (v : Nat) : Nat → Proc Nat
  | 0 => return v
  | n + 1 => do
    let b ← readBit
    readBitsFrom (2 * v + b.toNat) n

/-- `read_bits(n)` (spec R133). -/
def readBits (n : Nat) : Proc Nat :=
  if Config.readBitsMax < n then refuse .badOperand else readBitsFrom 0 n

/-- `peek_marker()` (spec R134): looks at two bytes, skips no fill byte, ignores unread bits. -/
def peekMarker (r : Reader) : Option Byte :=
  match r.byte? r.rp, r.byte? (r.rp + 1) with
  | some b, some m => if b = 0xFF && m ≠ 0x00 then some m else none
  | _, _ => none

/-- `align_to_byte()` (spec R135). -/
def alignToByte : Proc Unit := modifyReader fun r => { r with rcnt := 0 }

/-- How many bytes `0xFF` a byte string begins with (spec R81: fill bytes). -/
def fillRun : List Byte → Nat
  | [] => 0
  | b :: bs => if b = 0xFF then fillRun bs + 1 else 0

/-- The address of the first byte from `p` on that is not `0xFF`, or `INLEN` (spec R136: skipping fill bytes). -/
def Reader.skipFill (r : Reader) (p : Nat) : Nat := p + fillRun (r.inp.drop p)

/-- `read_marker()` (spec R136). It leaves the bit reader empty, `rcnt = 0`: DEDUCED from D11 (R136 requires `rcnt = 0`
on entry and does not write it), log entry 6. -/
def readMarker : Proc Byte := do
  let r := (← get).reader
  match r.byte? r.rp with
  | none => raise .unexpectedEndOfStream r.rp
  | some b =>
    if b ≠ 0xFF then raise .invalidMarker r.rp
    else
      let p := r.skipFill (r.rp + 1)
      match r.byte? p with
      | none => raise .unexpectedEndOfStream p
      | some m =>
        if m = 0x00 then raise .invalidMarker p
        else do
          modifyReader fun r => { r with rp := p + 1, rcnt := 0 }
          return m

/-- `bw_reset()` (spec R140). -/
def bwReset : Proc Unit := modifyWriter fun w => { w with wacc := 0, wcnt := 0 }

/-- `emit_byte(b)` on the writer registers: the byte, and the stuffed zero after `0xFF` (spec R141). -/
def Writer.emitByte (w : Writer) (b : Byte) : Writer :=
  { w with out := w.out ++ (if b = 0xFF then [b, 0x00] else [b]) }

/-- One turn of the loop of `write_bits` (spec R142). -/
def Writer.writeBit (w : Writer) (b : Bool) : Writer :=
  let wacc := (w.wacc <<< 1) ||| (BitVec.ofBool b).zeroExtend 8
  if w.wcnt + 1 = 8 then { w.emitByte wacc with wacc := 0, wcnt := 0 }
  else { w with wacc := wacc, wcnt := w.wcnt + 1 }

/-- `write_bits(value, n)` on the writer registers: the `n` low bits, the most significant of them first (spec R142). -/
def Writer.writeBits (w : Writer) (value n : Nat) : Writer := (natToBits value n).foldl Writer.writeBit w

/-- `flush_with_padding()` on the writer registers (spec R143). -/
def Writer.flush (w : Writer) : Writer :=
  if 0 < w.wcnt then
    { w.emitByte ((w.wacc <<< (8 - w.wcnt)) ||| BitVec.ofNat 8 (2 ^ (8 - w.wcnt) - 1)) with wacc := 0, wcnt := 0 }
  else w

/-- `emit_byte(b)` (spec R141). -/
def emitByte (b : Byte) : Proc Unit := modifyWriter fun w => w.emitByte b

/-- `write_bits(value, n)` (spec R142). -/
def writeBits (value n : Nat) : Proc Unit :=
  if Config.writeBitsMax < n then refuse .badOperand else modifyWriter fun w => w.writeBits value n

/-- `flush_with_padding()` (spec R143). -/
def flushWithPadding : Proc Unit := modifyWriter Writer.flush

/-- `put_raw(b₀ b₁ …)`: bytes with no stuffing. It requires `wcnt = 0` (spec R144); with bits gathered it is refused, and so
is every emission procedure that calls it (R243 to R249, when one runs alone): DESIGN CHOICE, log entry 10. -/
def putRaw (bs : List Byte) : Proc Unit := do
  require ((← get).writer.wcnt = 0) .bitsGathered
  modifyWriter fun w => { w with out := w.out ++ bs }

/-- The row `br_attach` (spec R130: `0 ≤ p ≤ INLEN`); past the buffer it is refused: DESIGN CHOICE, log entry 10. -/
def execBrAttach (p : Nat) (s : State) : Host.Outcome State Fault Refusal :=
  runUnit (do require (p ≤ s.reader.inlen) .attachOutsideBuffer; brAttach p) s

/-- The row `fetch_byte` (spec R131: called by `read_bit` only, when `rcnt = 0`). Run alone with `rcnt > 0` it does what the
pseudocode does, and the unread bits are lost: DESIGN CHOICE, log entry 25. -/
def execFetchByte (s : State) : Host.Outcome State Fault Refusal := runUnit fetchByte s

/-- The row `read_bit` (spec R132). -/
def execReadBit (s : State) : Host.Outcome State Fault Refusal := runProc Value.bool readBit s

/-- The row `read_bits` (spec R133). -/
def execReadBits (n : Nat) (s : State) : Host.Outcome State Fault Refusal := runProc Value.nat (readBits n) s

/-- The row `peek_marker` (spec R134). -/
def execPeekMarker (s : State) : Host.Outcome State Fault Refusal := runPure (.marker (peekMarker s.reader)) s

/-- The row `align_to_byte` (spec R135). -/
def execAlignToByte (s : State) : Host.Outcome State Fault Refusal := runUnit alignToByte s

/-- The row `read_marker` (spec R136). -/
def execReadMarker (s : State) : Host.Outcome State Fault Refusal := runProc Value.byte readMarker s

/-- The row `bw_reset` (spec R140). -/
def execBwReset (s : State) : Host.Outcome State Fault Refusal := runUnit bwReset s

/-- The row `emit_byte` (spec R141). -/
def execEmitByte (b : Byte) (s : State) : Host.Outcome State Fault Refusal := runUnit (emitByte b) s

/-- The row `write_bits` (spec R142). -/
def execWriteBits (value n : Nat) (s : State) : Host.Outcome State Fault Refusal := runUnit (writeBits value n) s

/-- The row `flush_with_padding` (spec R143). -/
def execFlushWithPadding (s : State) : Host.Outcome State Fault Refusal := runUnit flushWithPadding s

/-- The row `put_raw` (spec R144: requires `wcnt = 0`). -/
def execPutRaw (bytes : List Byte) (s : State) : Host.Outcome State Fault Refusal :=
  runUnit (putRaw bytes) s

/-- STUFF for the reader: the pair `FF 00` at `rp` is one data byte `0xFF` (spec R91, R131). Other bytes are not this
escape: refused, DESIGN CHOICE, log entry 10. Run with `rcnt > 0` it loses the unread bits: DESIGN CHOICE, log entry 25. -/
def stuff : Proc Unit := do
  let r := (← get).reader
  require (r.byte? r.rp = some 0xFF && r.byte? (r.rp + 1) = some 0x00) .notAnEscape
  modifyReader fun r => { r with racc := 0xFF, rp := r.rp + 2, rcnt := 8 }

/-- The row `STUFF` (spec R131, R91). -/
def execStuff (s : State) : Host.Outcome State Fault Refusal := runUnit stuff s

/-- PAD(n): while encoding, the writer completes its byte with `n` one-bits (spec R143); otherwise the reader discards,
unchecked, the `n` bits left of its byte (spec R135). Another `n` is not this padding: refused, DESIGN CHOICE, log entry
10. -/
def padding (n : Nat) : Proc Unit := do
  let s ← get
  match s.status.phase with
  | .busyEnc => do
    require (1 ≤ n && n ≤ 7 && s.writer.wcnt + n = 8) .padMismatch
    flushWithPadding
  | .idle | .busyDec | .decoded | .failed | .refused => do
    require (1 ≤ n && n ≤ 7 && s.reader.rcnt = n) .padMismatch
    alignToByte

/-- The row `PAD(n)` (spec R100, R135, R143). -/
def execPad (n : Nat) (s : State) : Host.Outcome State Fault Refusal := runUnit (padding n) s

/-- FILL: one fill byte `0xFF` where a marker is expected is skipped (spec R81, R136). A decode in progress runs it only
where another `0xFF` follows. Run alone elsewhere: DESIGN CHOICE, log entry 24. It takes an `0xFF` whatever follows, the one
that opens a marker too, and keeps the bits not yet delivered; another byte and the end of the buffer end it as they end
`read_marker`. -/
def fillByte : Proc Unit := do
  let r := (← get).reader
  match r.byte? r.rp with
  | none => raise .unexpectedEndOfStream r.rp
  | some b =>
    if b ≠ 0xFF then raise .invalidMarker r.rp
    else do
      modifyReader fun r => { r with rp := r.rp + 1 }
      modifyWalk fun w => { w with fills := w.fills + 1 }

/-- The row `FILL` (spec R136, R81). -/
def execFill (s : State) : Host.Outcome State Fault Refusal := runUnit fillByte s

end Sys2Proof.Machine
end

