-- ==== Sys2Proof/Machine/Huffman.lean ====
section
/-! DEFINITION. The Huffman unit: canonical code construction, symbol decode, symbol encode (spec R160 to R168). -/

namespace Sys2Proof.Machine

/-- The codes of one length `L`: `n` consecutive codes from `c` on, and the running code after them. `none` when one
would not be below `2^L` (spec R161, R162). -/
def codesOfLength (len : Nat) : Nat → Nat → Option (List (Nat × Nat) × Nat)
  | 0, c => some ([], c)
  | n + 1, c =>
    if 2 ^ len ≤ c then none
    else (codesOfLength len n (c + 1)).map fun r => ((c, len) :: r.1, r.2)

/-- The codes of the lengths from `len` on, the running code doubled on entering each new length (spec R161). -/
def codesFrom (len : Nat) : List Nat → Nat → Option (List (Nat × Nat))
  | [], _ => some []
  | n :: ns, c =>
    match codesOfLength len n c with
    | none => none
    | some (here, c') => (codesFrom (len + 1) ns (2 * c')).map fun later => here ++ later

/-- `build_table`: the pairs (`code[i]`, `len[i]`) in order; `none` when the table is over-subscribed (spec R161, R162).
The running code starts at 0 (spec R161, G10). -/
def buildTable (counts : Vector Byte 16) : Option (List (Nat × Nat)) :=
  codesFrom 1 (counts.toList.map BitVec.toNat) 0

/-- `total = Σ counts[L]` (spec R34). -/
def totalOf (counts : Vector Byte 16) : Nat := (counts.toList.map BitVec.toNat).sum

/-- `build_table` as a procedure (spec R161). -/
def buildTableProc (counts : Vector Byte 16) : Proc (List (Nat × Nat)) :=
  match buildTable counts with
  | none => refuse .huffmanOversubscribed
  | some cs => return cs

/-- The code words of a slot with their symbols. A slot that is not valid is the empty table (spec R34, R165). -/
def slotCodes (slot : HuffSlot) : Proc (List ((Nat × Nat) × Byte)) :=
  if slot.valid then do
    let cs ← buildTableProc slot.counts
    return cs.zip slot.values
  else return []

/-- The loop of `huff_decode`: `n` more bits may be read after the code `c` of length `len` (spec R163). -/
def huffDecodeFrom (table : List ((Nat × Nat) × Byte)) (len c : Nat) : Nat → Proc Byte
  | 0 => do raise .invalidHuffmanCode (← get).reader.rp
  | n + 1 => do
    let b ← readBit
    let c' := 2 * c + b.toNat
    match table.find? fun e => e.1 == (c', len + 1) with
    | some e => return e.2
    | none => huffDecodeFrom table (len + 1) c' n

/-- `huff_decode(tc, th)` (spec R163). -/
def huffDecode (tc : TableClass) (th : Slot) : Proc Byte := do
  let table ← slotCodes ((← get).image.ht tc th)
  huffDecodeFrom table 0 0 Config.huffMaxLen

/-- `huff_encode(tc, th, sym)`: the first occurrence of the symbol (spec R164). The recorded position is the MCU index
(R259, R321, D28; R164's pseudocode writes 0, the value is informative): DESIGN CHOICE, log entry 4. -/
def huffEncode (tc : TableClass) (th : Slot) (sym : Byte) : Proc Unit := do
  let table ← slotCodes ((← get).image.ht tc th)
  match table.find? fun e => e.2 == sym with
  | none => raise .invalidHuffmanCode (← get).work.mcu
  | some e => writeBits e.1.1 e.1.2

/-- The row `build_table` (spec R161, R162). With another number of values than `Σ counts` the codes returned are a free
value, and an over-subscribed table is refused as ever: DESIGN CHOICE, log entry 22. -/
def execBuildTable (counts : Vector Byte 16) (values : List Byte) (s : State) : Host.Outcome State Fault Refusal :=
  runProc Value.codes (do
    let cs ← buildTableProc counts
    return if values.length = totalOf counts then cs else Config.codesUnstated counts values) s

/-- The row `huff_decode` (spec R163). -/
def execHuffDecode (tc : TableClass) (th : Slot) (s : State) : Host.Outcome State Fault Refusal :=
  runProc Value.byte (huffDecode tc th) s

/-- The row `huff_encode` (spec R164). -/
def execHuffEncode (tc : TableClass) (th : Slot) (sym : Byte) (s : State) : Host.Outcome State Fault Refusal :=
  runUnit (huffEncode tc th sym) s

end Sys2Proof.Machine
end

