-- ==== Sys2Proof/Machine/Segments.lean ====
section
/-! DEFINITION. The segment walk's byte-level procedures and the marker rules that read one segment: SOI check, segment
reading, capture, DQT, DHT, SOF0, DRI, and the rejected markers (spec R181, R183 to R192, R194, R195). -/

namespace Sys2Proof.Machine

/-- `check_soi()` (spec R181). -/
def checkSoi : Proc Unit := do
  let r := (← get).reader
  if r.inlen < 2 then raise .unexpectedEndOfStream r.inlen
  else if r.byte? 0 ≠ some 0xFF || r.byte? 1 ≠ some 0xD8 then raise .invalidMarker 0
  else do
    acceptSoi
    modifyReader fun r => { r with rp := 2 }

/-- `read_segment()` (spec R183); `lpos` is kept for the rules that name it. -/
def readSegment : Proc (List Byte) := do
  let r := (← get).reader
  let lpos := r.rp
  modifyWalk fun w => { w with lpos := lpos }
  match r.byte? lpos, r.byte? (lpos + 1) with
  | some b0, some b1 =>
    let ls := (be16 b0 b1).toNat
    if ls < 2 then raise .invalidSegmentLength lpos
    else if r.inlen < lpos + ls then raise .unexpectedEndOfStream lpos
    else do
      modifyReader fun r => { r with rp := lpos + ls }
      return (r.inp.drop (lpos + 2)).take (ls - 2)
  | _, _ => raise .unexpectedEndOfStream lpos

/-- `raise InvalidSegmentLength(lpos)`: the payload's contents do not fill it (spec R322). -/
def badLength {α : Type} : Proc α := do raise .invalidSegmentLength (← get).walk.lpos

/-- `raise InvalidMarker(mpos)`: a marker that may not stand here (spec R195). -/
def misplacedMarker {α : Type} : Proc α := do raise .invalidMarker (← get).walk.mpos

/-- `raise UnsupportedMode(mpos)`, the segment not read (spec R190). -/
def unsupportedMode : Proc Unit := do raise .unsupportedMode (← get).walk.mpos

/-- Capture: `SEG.append((m, read_segment()))` (spec R184 to R186). -/
def capture (m : Byte) : Proc Unit := do
  let payload ← readSegment
  modifyImage fun im => { im with seg := im.seg ++ [{ marker := m, payload }] }

/-- The 64 entries of a quantisation table, in the order of the stream: bytes, or big-endian pairs (spec R85, R187). -/
def quantEntries (pq : BitVec 4) (bytes : List Byte) : Vector Half 64 :=
  Vector.ofFn fun i : Fin 64 =>
    if pq = 0 then (bytes.getD i.val 0).zeroExtend 16
    else be16 (bytes.getD (2 * i.val) 0) (bytes.getD (2 * i.val + 1) 0)

/-- The loop of DQT over the payload left (spec R187). Every turn takes at least one byte, so a bound of the payload's
length is never reached. -/
def dqtTables : Nat → List Byte → Proc Unit
  | _, [] => return ()
  | 0, _ :: _ => return ()
  | n + 1, b :: rest =>
    let pq := hiNibble b
    if 1 < pq.toNat then do raise .unsupportedPrecision (← get).walk.lpos
    else
      match slotOf (loNibble b).toNat with
      | none => refuse .tableIdOutOfRange
      | some tq =>
        let w := 64 * (pq.toNat + 1)
        if rest.length < w then badLength
        else do
          modifyImage fun im => im.setQt tq { valid := true, pq := pq.truncate 1, q := quantEntries pq rest }
          dqtTables n (rest.drop w)

/-- DQT (spec R187). -/
def dqtRule : Proc Unit := do
  let pl ← readSegment
  if pl.length = 0 then badLength else dqtTables pl.length pl

/-- The class a nibble `Tc` names (spec R86). -/
def classOf (tc : BitVec 4) : Option TableClass := if tc = 0 then some .dc else if tc = 1 then some .ac else none

/-- The loop of DHT over the payload left (spec R188); bounded as `dqtTables`. -/
def dhtTables : Nat → List Byte → Proc Unit
  | _, [] => return ()
  | 0, _ :: _ => return ()
  | n + 1, b :: rest =>
    match classOf (hiNibble b) with
    | none => refuse .tableClass
    | some tc =>
      match slotOf (loNibble b).toNat with
      | none => refuse .tableIdOutOfRange
      | some th =>
        if rest.length < 16 then badLength
        else
          let counts : Vector Byte 16 := Vector.ofFn fun i : Fin 16 => rest.getD i.val 0
          let total := totalOf counts
          if rest.length < 16 + total then badLength
          else do
            let _ ← buildTableProc counts
            modifyImage fun im =>
              im.setHt tc th { valid := true, counts, values := (rest.drop 16).take total }
            dhtTables n (rest.drop (16 + total))

/-- DHT (spec R188). -/
def dhtRule : Proc Unit := do
  let pl ← readSegment
  if pl.length = 0 then badLength else dhtTables pl.length pl

/-- The component loop of SOF0 over the bytes left and the components accepted so far (spec R189). -/
def sofComps : List Byte → List Comp → Proc (List Comp)
  | c :: hv :: tqByte :: rest, acc =>
    let h := hiNibble hv
    let v := loNibble hv
    if h.toNat < 1 || Config.samplingMax < h.toNat || v.toNat < 1 || Config.samplingMax < v.toNat then
      refuse .badFrameParams
    else
      match slotOf tqByte.toNat with
      | none => refuse .tableIdOutOfRange
      | some tq =>
        if acc.any fun d => d.c == c then refuse .badFrameParams
        else sofComps rest (acc ++ [{ c, h, v, tq }])
  | _, acc => return acc

/-- SOF0 (spec R189). The planes are allocated with the frame (R196). -/
def sof0Rule : Proc Unit := do
  let pl ← readSegment
  if (← get).image.frame.valid then misplacedMarker
  else
    match pl with
    | p :: y1 :: y0 :: x1 :: x0 :: nf :: compBytes =>
      if compBytes.length ≠ 3 * nf.toNat then badLength
      else if p ≠ Config.samplePrecision then do raise .unsupportedPrecision (← get).walk.lpos
      else if nf.toNat < 1 || Config.maxComponents < nf.toNat || be16 x1 x0 = 0 || be16 y1 y0 = 0 then
        refuse .badFrameParams
      else do
        let comps ← sofComps compBytes []
        acceptFrame { valid := true, p, y := be16 y1 y0, x := be16 x1 x0, comps }
    | _ => badLength

/-- DRI (spec R192). -/
def driRule : Proc Unit := do
  let pl ← readSegment
  match pl with
  | [b1, b0] => modifyImage fun im => { im with ri := be16 b1 b0 }
  | _ => badLength

/-- EOI (spec R194). -/
def eoiRule : Proc Unit := do
  if (← get).image.nscan = 0 then misplacedMarker else acceptEoi

/-- SOI: accepted as the first two bytes of the stream (spec R181), and a misplaced marker everywhere else (R195). -/
def soiRule : Proc Unit := do
  let s ← get
  if s.image.fSoi = false && s.reader.rp = 2 then acceptSoi else misplacedMarker

/-- `FF 00` where a marker is expected (spec R136); `rp` is just past the zero, whose address is recorded. -/
def notACodeRule : Proc Unit := do raise .invalidMarker ((← get).reader.rp - 1)

/-- DAC: `raise UnsupportedArithmeticCoding(mpos)`, the segment not read (spec R191). -/
def dacRule : Proc Unit := do raise .unsupportedArithmeticCoding (← get).walk.mpos

/-- The effect of an accepted restart marker: the next number, cycling 0 to 7, and the predictors at zero (spec R203). -/
def restartEffect : Proc Unit :=
  modifyWork fun w => { w with rstn := w.rstn + 1, pred := Vector.replicate 4 0 }

/-- RSTn: at a restart point of a scan the expected one is consumed and any other is `MissingRestartMarker` (spec R203);
in the segment walk it is a misplaced marker (R195). -/
def rstRule (n : BitVec 3) : Proc Unit := do
  let s ← get
  if s.walk.level = .mcu then
    (if n = s.work.rstn then restartEffect else raise .missingRestartMarker s.walk.mpos)
  else misplacedMarker

/-- The row `SOI` (spec R181, R195). -/
def execSoi (s : State) : Host.Outcome State Fault Refusal := runUnit soiRule s

/-- The row `EOI` (spec R194). -/
def execEoi (s : State) : Host.Outcome State Fault Refusal := runUnit eoiRule s

/-- The row `SOF0` (spec R189, R196). -/
def execSof0 (s : State) : Host.Outcome State Fault Refusal := runUnit sof0Rule s

/-- SOF1 (spec R190). -/
def sof1Rule : Proc Unit := unsupportedMode
/-- SOF2 (spec R190). -/
def sof2Rule : Proc Unit := unsupportedMode
/-- SOF3 (spec R190). -/
def sof3Rule : Proc Unit := unsupportedMode
/-- SOF5 (spec R190). -/
def sof5Rule : Proc Unit := unsupportedMode
/-- SOF6 (spec R190). -/
def sof6Rule : Proc Unit := unsupportedMode
/-- SOF7 (spec R190). -/
def sof7Rule : Proc Unit := unsupportedMode
/-- SOF9 (spec R190). -/
def sof9Rule : Proc Unit := unsupportedMode
/-- SOF10 (spec R190). -/
def sof10Rule : Proc Unit := unsupportedMode
/-- SOF11 (spec R190). -/
def sof11Rule : Proc Unit := unsupportedMode
/-- SOF13 (spec R190). -/
def sof13Rule : Proc Unit := unsupportedMode
/-- SOF14 (spec R190). -/
def sof14Rule : Proc Unit := unsupportedMode
/-- SOF15 (spec R190). -/
def sof15Rule : Proc Unit := unsupportedMode
/-- JPG (spec R190). -/
def jpgRule : Proc Unit := unsupportedMode
/-- APPn (spec R184). -/
def appRule (n : BitVec 4) : Proc Unit := capture (0xE0 + n.zeroExtend 8)
/-- COM (spec R185). -/
def comRule : Proc Unit := capture 0xFE
/-- DNL (spec R186): captured, not acted on. -/
def dnlRule : Proc Unit := capture 0xDC
/-- DHP (spec R186): captured, not acted on. -/
def dhpRule : Proc Unit := capture 0xDE
/-- EXP (spec R186): captured, not acted on. -/
def expRule : Proc Unit := capture 0xDF
/-- JPG0 to JPG7 (spec R186). -/
def jpgLowRule (n : BitVec 3) : Proc Unit := capture (0xF0 + n.zeroExtend 8)
/-- JPG8 to JPG11 (spec R186). -/
def jpgMidRule (n : BitVec 2) : Proc Unit := capture (0xF8 + n.zeroExtend 8)
/-- JPG12 and JPG13 (spec R186). -/
def jpgHighRule (n : BitVec 1) : Proc Unit := capture (0xFC + n.zeroExtend 8)
/-- The code bytes `0x01 … 0xBF` (spec R195). -/
def illegalMarkerRule (_m : Byte) : Proc Unit := misplacedMarker

/-- The row `SOF1` (spec R190). -/
def execSof1 (s : State) : Host.Outcome State Fault Refusal := runUnit sof1Rule s
/-- The row `SOF2` (spec R190). -/
def execSof2 (s : State) : Host.Outcome State Fault Refusal := runUnit sof2Rule s
/-- The row `SOF3` (spec R190). -/
def execSof3 (s : State) : Host.Outcome State Fault Refusal := runUnit sof3Rule s
/-- The row `SOF5` (spec R190). -/
def execSof5 (s : State) : Host.Outcome State Fault Refusal := runUnit sof5Rule s
/-- The row `SOF6` (spec R190). -/
def execSof6 (s : State) : Host.Outcome State Fault Refusal := runUnit sof6Rule s
/-- The row `SOF7` (spec R190). -/
def execSof7 (s : State) : Host.Outcome State Fault Refusal := runUnit sof7Rule s
/-- The row `SOF9` (spec R190). -/
def execSof9 (s : State) : Host.Outcome State Fault Refusal := runUnit sof9Rule s
/-- The row `SOF10` (spec R190). -/
def execSof10 (s : State) : Host.Outcome State Fault Refusal := runUnit sof10Rule s
/-- The row `SOF11` (spec R190). -/
def execSof11 (s : State) : Host.Outcome State Fault Refusal := runUnit sof11Rule s
/-- The row `SOF13` (spec R190). -/
def execSof13 (s : State) : Host.Outcome State Fault Refusal := runUnit sof13Rule s
/-- The row `SOF14` (spec R190). -/
def execSof14 (s : State) : Host.Outcome State Fault Refusal := runUnit sof14Rule s
/-- The row `SOF15` (spec R190). -/
def execSof15 (s : State) : Host.Outcome State Fault Refusal := runUnit sof15Rule s
/-- The row `JPG` (spec R190). -/
def execJpg (s : State) : Host.Outcome State Fault Refusal := runUnit jpgRule s
/-- The row `DHT` (spec R188). -/
def execDht (s : State) : Host.Outcome State Fault Refusal := runUnit dhtRule s
/-- The row `DAC` (spec R191). -/
def execDac (s : State) : Host.Outcome State Fault Refusal := runUnit dacRule s
/-- The row `RSTn` (spec R203, R195). -/
def execRst (n : BitVec 3) (s : State) : Host.Outcome State Fault Refusal := runUnit (rstRule n) s
/-- The row `DQT` (spec R187). -/
def execDqt (s : State) : Host.Outcome State Fault Refusal := runUnit dqtRule s
/-- The row `DRI` (spec R192). -/
def execDri (s : State) : Host.Outcome State Fault Refusal := runUnit driRule s
/-- The row `APPn` (spec R184). -/
def execApp (n : BitVec 4) (s : State) : Host.Outcome State Fault Refusal := runUnit (appRule n) s
/-- The row `COM` (spec R185). -/
def execCom (s : State) : Host.Outcome State Fault Refusal := runUnit comRule s
/-- The row `DNL` (spec R186). -/
def execDnl (s : State) : Host.Outcome State Fault Refusal := runUnit dnlRule s
/-- The row `DHP` (spec R186). -/
def execDhp (s : State) : Host.Outcome State Fault Refusal := runUnit dhpRule s
/-- The row `EXP` (spec R186). -/
def execExp (s : State) : Host.Outcome State Fault Refusal := runUnit expRule s
/-- The row `JPGn (0xF0..0xF7)` (spec R186). -/
def execJpgLow (n : BitVec 3) (s : State) : Host.Outcome State Fault Refusal := runUnit (jpgLowRule n) s
/-- The row `JPGn (0xF8..0xFB)` (spec R186). -/
def execJpgMid (n : BitVec 2) (s : State) : Host.Outcome State Fault Refusal := runUnit (jpgMidRule n) s
/-- The row `JPGn (0xFC..0xFD)` (spec R186). -/
def execJpgHigh (n : BitVec 1) (s : State) : Host.Outcome State Fault Refusal := runUnit (jpgHighRule n) s
/-- The row of the illegal marker codes `0x01 … 0xBF` (spec R195). -/
def execIllegalMarker (m : Byte) (s : State) : Host.Outcome State Fault Refusal := runUnit (illegalMarkerRule m) s
/-- The row of the byte `0x00` where a code byte is expected (spec R136). -/
def execNotACode (s : State) : Host.Outcome State Fault Refusal := runUnit notACodeRule s
/-- The row `check_soi` (spec R181). -/
def execCheckSoi (s : State) : Host.Outcome State Fault Refusal := runUnit checkSoi s
/-- The row `read_segment` (spec R183). -/
def execReadSegment (s : State) : Host.Outcome State Fault Refusal := runProc Value.bytes readSegment s

end Sys2Proof.Machine
end

