-- ==== Sys2Proof/Machine/Decoder.lean ====
section
/-! DEFINITION. The decoder above the segments: data units, scans, restart, SOS, the walk and the command DECODE (spec
R180, R182, R193, R196 to R207). -/

namespace Sys2Proof.Machine

/-- The rest of `decode_dc` after its symbol: `S` magnitude bits, the difference, the predictor, `CB[0]` (spec R200). -/
def dcSizeRule (ci : Slot) (s : Fin 12) : Proc Unit := do
  let bits ← readBits s.val
  modifyWork fun w =>
    let dc := w.pred[ci] + extend bits s.val
    { w with pred := w.pred.set ci dc, cb := w.cb.set 0 dc }

/-- A DC symbol above 11 (spec R200). -/
def illegalDcRule (_sym : Byte) : Proc Unit := refuse .dcSizeOutOfRange

/-- EOB: the data unit ends, `CB[k..63]` stay 0 (spec R201). The value is `stop`. -/
def eobRule : Proc Bool := return true

/-- ZRL: 16 zeros; refused past index 63 (spec R201). `k` is written only when the run fits: DESIGN CHOICE, log entry 5. -/
def zrlRule : Proc Bool := do
  let k := (← get).work.k + 16
  if 64 < k then refuse .acIndexOverflow
  else do
    modifyWork fun w => { w with k := k }
    return false

/-- The general AC symbol: skip `R` zeros, read `S` bits, store at the next index; refused past index 63 (spec R201).
`k` is written only when the run fits: DESIGN CHOICE, log entry 5. -/
def acRunSizeRule (r s : BitVec 4) : Proc Bool := do
  let k := (← get).work.k + r.toNat
  if 63 < k then refuse .acIndexOverflow
  else do
    modifyWork fun w => { w with k := k }
    let bits ← readBits s.toNat
    modifyWork fun w => { w with cb := w.cb.setIfInBounds k (extend bits s.toNat), k := k + 1 }
    return false

/-- `decode_dc(ci, Td)` (spec R200). -/
def decodeDc (ci td : Slot) : Proc Unit := do
  let sym ← huffDecode .dc td
  if h : sym.toNat < 12 then dcSizeRule ci ⟨sym.toNat, h⟩ else illegalDcRule sym

/-- `decode_ac(Ta)`; the value is `stop` (spec R201). The rule has `1 ≤ k ≤ 63` on entry. Run alone with another `k`, it and
the rows EOB, ZRL and AC do what the pseudocode does with it: DESIGN CHOICE, log entry 23. -/
def decodeAc (ta : Slot) : Proc Bool := do
  let rs ← huffDecode .ac ta
  if rs = 0x00 then eobRule
  else if rs = 0xF0 then zrlRule
  else acRunSizeRule (hiNibble rs) (loNibble rs)

/-- The AC loop of `decode_block`: while `k ≤ 63` and no EOB (spec R199). Every turn raises `k`, so 63 turns are
enough. -/
def decodeAcs (ta : Slot) : Nat → Proc Unit
  | 0 => return ()
  | n + 1 => do
    if (← get).work.k ≤ 63 then
      let stop ← decodeAc ta
      if stop then return () else decodeAcs ta n

/-- `CB[0..63] <- 0` (spec R199). -/
def clearBlock : Proc Unit := modifyWork fun w => { w with cb := Vector.replicate 64 0 }

/-- `k <- 1` (spec R199). -/
def firstAc : Proc Unit := modifyWork fun w => { w with k := 1 }

/-- `decode_block(ci, Td, Ta)` (spec R199). -/
def decodeBlock (ci td ta : Slot) : Proc Unit := do
  clearBlock
  decodeDc ci td
  firstAc
  decodeAcs ta 63

/-- `PLANE[ci][by][bx][0..63] <- CB[0..63]` (spec R197, R198). -/
def storeBlock (u : DataUnit) : Proc Unit :=
  modify fun s => { s with image := { s.image with plane := s.image.plane.writeBlock u.ci u.row u.col s.work.cb } }

/-- `restart()` (spec R203): every failure to find the expected marker is `MissingRestartMarker`. -/
def restart : Proc Unit := do
  alignToByte
  let s ← get
  let r := s.reader
  if r.byte? r.rp ≠ some 0xFF then raise .missingRestartMarker r.rp
  else
    let p := r.skipFill r.rp
    if r.byte? p ≠ some (0xD0 + s.work.rstn.zeroExtend 8) then raise .missingRestartMarker r.rp
    else do
      modifyReader fun r => { r with rp := p + 1 }
      restartEffect

/-- Whether a restart is due before MCU `mcu` (spec R197, R203, R250). -/
def restartDue (ri : Half) (mcu : Nat) : Bool := 0 < ri.toNat && 0 < mcu && mcu % ri.toNat = 0

/-- What happens before the data units of MCU `mcu`: `CANCEL` is sampled, and a restart done if due (spec R197). -/
def mcuBegin (mcu : Nat) : Proc Unit := do
  modifyWork fun w => { w with mcu := mcu }
  pollCancel fun s => s.reader.rp
  if restartDue (← get).image.ri mcu then restart

/-- The data units of an MCU in order (spec R197). -/
def decodeUnits : List DataUnit → Proc Unit
  | [] => return ()
  | u :: us => do
    decodeBlock u.ci u.td u.ta
    storeBlock u
    decodeUnits us

/-- The MCU loop of `decode_scan`: `n` MCUs from number `mcu` on (spec R197). -/
def decodeMcus (sc : List ScanComp) (mcu : Nat) : Nat → Proc Unit
  | 0 => modifyWork fun w => { w with mcu := mcu }
  | n + 1 => do
    mcuBegin mcu
    decodeUnits (mcuUnits (← get).image.frame sc mcu)
    decodeMcus sc (mcu + 1) n

/-- What every scan begins with: `PRED <- 0`, `rstn <- 0` (spec R197, R250, R352). -/
def scanBegin : Proc Unit := do
  clearPred
  modifyWork fun w => { w with rstn := 0 }

/-- `decode_scan(SC)` (spec R197, R204). -/
def decodeScan (sc : List ScanComp) : Proc Unit := do
  brAttach (← get).reader.rp
  scanBegin
  decodeMcus sc 0 (← get).image.frame.mcuCount
  alignToByte

/-- The component loop of SOS over the bytes left and the components accepted so far (spec R193). -/
def sosComps (f : Frame) : List Byte → List ScanComp → Proc (List ScanComp)
  | cs :: t :: rest, acc =>
    match f.findComp cs with
    | none => refuse .badScanParams
    | some ci =>
      match slotOf (hiNibble t).toNat, slotOf (loNibble t).toNat with
      | some td, some ta =>
        if acc.any fun d => d.ci == ci then refuse .badScanParams
        else sosComps f rest (acc ++ [{ ci, td, ta }])
      | _, _ => refuse .tableIdOutOfRange
  | _, acc => return acc

/-- SOS up to the scan itself: the header is checked and recorded (spec R193). -/
def sosHeader : Proc Unit := do
  let pl ← readSegment
  if (← get).image.frame.valid = false then misplacedMarker
  else
    match pl with
    | [] => badLength
    | ns :: rest =>
      if rest.length ≠ 3 + 2 * ns.toNat then badLength
      else if ns.toNat < 1 || Config.maxComponents < ns.toNat then refuse .badScanParams
      else do
        let sc ← sosComps (← get).image.frame (rest.take (2 * ns.toNat)) []
        let ss := rest.getD (2 * ns.toNat) 0
        let se := rest.getD (2 * ns.toNat + 1) 0
        let a := rest.getD (2 * ns.toNat + 2) 0
        if ss ≠ 0 || se ≠ 63 || a ≠ 0 then refuse .badScanParams
        else acceptScan { sc, ss, se, ah := hiNibble a, al := loNibble a }

/-- SOS (spec R193). -/
def sosRule : Proc Unit := do
  sosHeader
  decodeScan (← get).image.lastScan.sc

/-- The rule of a marker in the segment walk (spec R182: dispatch by the table of R82). -/
def markerRule : Instr → Proc Unit
  | .soi => soiRule
  | .eoi => eoiRule
  | .sof0 => sof0Rule
  | .sof1 => sof1Rule
  | .sof2 => sof2Rule
  | .sof3 => sof3Rule
  | .sof5 => sof5Rule
  | .sof6 => sof6Rule
  | .sof7 => sof7Rule
  | .sof9 => sof9Rule
  | .sof10 => sof10Rule
  | .sof11 => sof11Rule
  | .sof13 => sof13Rule
  | .sof14 => sof14Rule
  | .sof15 => sof15Rule
  | .jpg => jpgRule
  | .dht => dhtRule
  | .dac => dacRule
  | .rst n => rstRule n
  | .sos => sosRule
  | .dqt => dqtRule
  | .dri => driRule
  | .app n => appRule n
  | .com => comRule
  | .dnl => dnlRule
  | .dhp => dhpRule
  | .exp => expRule
  | .jpgLow n => jpgLowRule n
  | .jpgMid n => jpgMidRule n
  | .jpgHigh n => jpgHighRule n
  | .illegalMarker m => illegalMarkerRule m
  | .notACode => notACodeRule
  -- `decodeMarkerCode` gives no instruction of another level, and `read_marker` returns neither `0x00` nor `0xFF`
  | _ => misplacedMarker

/-- `mpos <- rp`, the address of the marker's first `0xFF`, the fill bytes already skipped included (preamble of
43_decoder.md, spec R180). -/
def setMpos : Proc Unit := modify fun s => { s with walk := { s.walk with mpos := s.reader.rp - s.walk.fills, fills := 0 } }

/-- One turn of the walk: read a marker and do its rule (spec R180, R182). -/
def walkOnce : Proc Unit := do
  setMpos
  let m ← readMarker
  markerRule (decodeMarkerCode m)

/-- The walk loop (spec R180, R182): it ends by EOI, or by a stop. -/
def walkFrom : Nat → Proc Unit
  | 0 => do raise .unexpectedEndOfStream (← get).reader.rp
  | n + 1 => do
    walkOnce
    if (← get).image.fEoi then return () else walkFrom n

/-- `walk`: every turn takes at least the two bytes of a marker or ends the walk, so `INLEN + 1` turns are never used
up (spec R182, R331). -/
def walk : Proc Unit := do walkFrom ((← get).reader.inlen + 1)

/-- `set every state element marked † to its reset value`, with the new input buffer (spec R41, R180, R352). -/
def beginDecode (buf : List Byte) : Proc Unit :=
  modify fun s =>
    { s with reader := { Reader.reset with inp := buf }, work := Work.reset, image := Image.reset, walk := Sequencer.reset }

/-- `DECODE(IN, INLEN)` (spec R180, R207). -/
def decodeCommandProc (buf : List Byte) : Proc Unit := do
  let phase := (← get).status.phase
  if phase ≠ .idle && phase ≠ .decoded then refuse .badPhase
  else do
    beginDecode buf
    setPhase .busyDec .marker
    checkSoi
    walk
    setPhase .decoded .command

/-- The row `DECODE` (spec R180, R207). -/
def execDecode (buf : List Byte) (s : State) : Host.Outcome State Fault Refusal := runUnit (decodeCommandProc buf) s

/-- The row `SOS` (spec R193, R197). -/
def execSos (s : State) : Host.Outcome State Fault Refusal := runUnit sosRule s

/-- The row `DC S=n` (spec R200): the component is the one of the data unit being decoded. -/
def execDcSize (size : Fin 12) (s : State) : Host.Outcome State Fault Refusal := runUnit (dcSizeRule s.walk.du.ci size) s

/-- The row of the illegal DC symbols (spec R200). -/
def execIllegalDc (sym : Byte) (s : State) : Host.Outcome State Fault Refusal := runUnit (illegalDcRule sym) s

/-- The row `EOB` (spec R201); with `k` outside `1..63`: DESIGN CHOICE, log entry 23. -/
def execEob (s : State) : Host.Outcome State Fault Refusal := runProc Value.bool eobRule s

/-- The row `ZRL` (spec R201); with `k` outside `1..63`: DESIGN CHOICE, log entry 23. -/
def execZrl (s : State) : Host.Outcome State Fault Refusal := runProc Value.bool zrlRule s

/-- The row `AC R=r S=s` (spec R201); with `k` outside `1..63`: DESIGN CHOICE, log entry 23. -/
def execAcRunSize (r size : BitVec 4) (s : State) : Host.Outcome State Fault Refusal :=
  runProc Value.bool (acRunSizeRule r size) s

/-- The row `walk (segment loop)` (spec R182). -/
def execWalk (s : State) : Host.Outcome State Fault Refusal := runUnit walk s

/-- The row `decode_scan` (spec R197: its operand is the scan record just appended); without one it is refused: DESIGN
CHOICE, log entry 10. -/
def execDecodeScan (s : State) : Host.Outcome State Fault Refusal :=
  runUnit (do require (s.image.scans ≠ []) .noScanRecord; decodeScan s.image.lastScan.sc) s

/-- The row `decode_block` (spec R199). -/
def execDecodeBlock (ci td ta : Slot) (s : State) : Host.Outcome State Fault Refusal := runUnit (decodeBlock ci td ta) s

/-- The row `decode_dc` (spec R200). -/
def execDecodeDc (ci td : Slot) (s : State) : Host.Outcome State Fault Refusal := runUnit (decodeDc ci td) s

/-- The row `decode_ac` (spec R201); with `k` outside `1..63`: DESIGN CHOICE, log entry 23. -/
def execDecodeAc (ta : Slot) (s : State) : Host.Outcome State Fault Refusal := runProc Value.bool (decodeAc ta) s

/-- The row `extend` (spec R202: `0 ≤ S ≤ 15`, `0 ≤ bits < 2^S`). On other operands the result is a free value: DESIGN
CHOICE, log entry 22. -/
def execExtend (bits size : Nat) (s : State) : Host.Outcome State Fault Refusal :=
  runPure (.int (if size ≤ 15 && bits < 2 ^ size then extend bits size else Config.extendUnstated bits size)) s

/-- The row `restart (decode)` (spec R203). -/
def execRestart (s : State) : Host.Outcome State Fault Refusal := runUnit restart s

end Sys2Proof.Machine
end

