-- ==== Sys2Proof/Machine/Encoder.lean ====
section
/-! DEFINITION. The encoder: the segments it emits, the entropy encode of the planes, and the command ENCODE (spec R240
to R260). -/

namespace Sys2Proof.Machine

/-- A marker with its segment: `FF m`, the length, the payload (spec R83, R242: no fill bytes). -/
def segmentBytes (m : Byte) (payload : List Byte) : List Byte :=
  [0xFF, m] ++ natBytes16 (payload.length + 2) ++ payload

/-- `emit_soi()` (spec R243). -/
def emitSoi : Proc Unit := putRaw [0xFF, 0xD8]

/-- `emit_preserved()` (spec R244). -/
def emitPreserved : Proc Unit := do
  (← get).image.seg.forM fun r => putRaw (segmentBytes r.marker r.payload)

/-- The payload of a DQT segment with one table (spec R85, R245). -/
def dqtPayload (tq : Slot) (slot : QuantSlot) : List Byte :=
  nibbles (slot.pq.zeroExtend 4) (slotNibble tq) ::
    slot.q.toList.flatMap fun e => if slot.pq = 0 then [e.truncate 8] else be16Bytes e

/-- The payload of a DHT segment with one table (spec R86, R246, R166). -/
def dhtPayload (tc : TableClass) (th : Slot) (slot : HuffSlot) : List Byte :=
  nibbles (classNibble tc) (slotNibble th) :: (slot.counts.toList ++ slot.values)

/-- The payload of the SOF0 segment (spec R87, R247). -/
def sof0Payload (f : Frame) : List Byte :=
  [f.p] ++ be16Bytes f.y ++ be16Bytes f.x ++ [BitVec.ofNat 8 f.nf] ++
    f.comps.flatMap fun c => [c.c, nibbles c.h c.v, slotByte c.tq]

/-- The payload of the SOS segment (spec R89, R249). -/
def sosPayload (f : Frame) (sc : Scan) : List Byte :=
  [BitVec.ofNat 8 sc.sc.length] ++
    (sc.sc.flatMap fun c => [(f.comp c.ci).c, nibbles (slotNibble c.td) (slotNibble c.ta)]) ++
    [sc.ss, sc.se, nibbles sc.ah sc.al]

/-- The quantisation tables the scan's components name, ascending (spec R245). -/
def usedQuant (im : Image) : List Slot :=
  Config.slots.filter fun t => im.scan0.sc.any fun c => (im.frame.comp c.ci).tq == t

/-- The Huffman tables of a class that the scan's components name, ascending (spec R246). -/
def usedHuff (im : Image) (tc : TableClass) : List Slot :=
  Config.slots.filter fun t => im.scan0.sc.any fun c => (match tc with | .dc => c.td | .ac => c.ta) == t

/-- One DQT segment (spec R245). -/
def emitOneDqt (tq : Slot) : Proc Unit := do
  let slot := (← get).image.qt[tq]
  if slot.valid then putRaw (segmentBytes 0xDB (dqtPayload tq slot)) else refuse .missingTable

/-- `emit_dqt()` (spec R245). -/
def emitDqt : Proc Unit := do (usedQuant (← get).image).forM emitOneDqt

/-- One DHT segment (spec R246). -/
def emitOneDht (tc : TableClass) (th : Slot) : Proc Unit := do
  let slot := (← get).image.ht tc th
  if slot.valid then putRaw (segmentBytes 0xC4 (dhtPayload tc th slot)) else refuse .missingTable

/-- `emit_dht()`: the DC tables, then the AC tables (spec R246). -/
def emitDht : Proc Unit := do
  let im := (← get).image
  (usedHuff im .dc).forM (emitOneDht .dc)
  (usedHuff im .ac).forM (emitOneDht .ac)

/-- `emit_sof0()` (spec R247). -/
def emitSof0 : Proc Unit := do putRaw (segmentBytes 0xC0 (sof0Payload (← get).image.frame))

/-- `emit_dri()` (spec R248). -/
def emitDri : Proc Unit := do
  let ri := (← get).image.ri
  if 0 < ri.toNat then putRaw (segmentBytes 0xDD (be16Bytes ri))

/-- `emit_sos()` (spec R249). -/
def emitSos : Proc Unit := do
  let im := (← get).image
  putRaw (segmentBytes 0xDA (sosPayload im.frame im.scan0))

/-- `encode_dc(ci, Td)` (spec R252). -/
def encodeDc (ci td : Slot) : Proc Unit := do
  let w := (← get).work
  let diff := w.cb[0] - w.pred[ci]
  modifyWork fun w => { w with pred := w.pred.set ci w.cb[0] }
  let s := size diff
  if Config.dcSizeMax < s then refuse .dcDiffOutOfRange
  else do
    huffEncode .dc td (BitVec.ofNat 8 s)
    writeBits (magbits diff s) s

/-- `n` ZRL symbols (spec R255). -/
def emitZrls (ta : Slot) : Nat → Proc Unit
  | 0 => return ()
  | n + 1 => do
    huffEncode .ac ta 0xF0
    emitZrls ta n

/-- The loop of `encode_ac`: `n` indices from `k` on, after a run of `r` zeros; the value is the run left at the end
(spec R255). -/
def encodeAcFrom (ta : Slot) (k r : Nat) : Nat → Proc Nat
  | 0 => do
    modifyWork fun w => { w with k := k }
    return r
  | n + 1 => do
    modifyWork fun w => { w with k := k }
    let v := (← get).work.cb.toList.getD k 0
    if v = 0 then encodeAcFrom ta (k + 1) (r + 1) n
    else do
      emitZrls ta (r / 16)
      let s := size v
      if Config.acSizeMax < s then refuse .acMagnitudeOutOfRange
      else do
        huffEncode .ac ta (nibbles (BitVec.ofNat 4 (r % 16)) (BitVec.ofNat 4 s))
        writeBits (magbits v s) s
        encodeAcFrom ta (k + 1) 0 n

/-- `encode_ac(Ta)` (spec R255). -/
def encodeAc (ta : Slot) : Proc Unit := do
  let r ← encodeAcFrom ta 1 0 63
  if 0 < r then huffEncode .ac ta 0x00

/-- `encode_block(ci, Td, Ta)` (spec R251). -/
def encodeBlock (ci td ta : Slot) : Proc Unit := do
  encodeDc ci td
  encodeAc ta

/-- `emit_restart()` (spec R256). -/
def emitRestart : Proc Unit := do
  flushWithPadding
  putRaw [0xFF, 0xD0 + (← get).work.rstn.zeroExtend 8]
  restartEffect

/-- `CB[0..63] <- PLANE[ci][by][bx][0..63]` (spec R250). -/
def loadBlock (u : DataUnit) : Proc Unit :=
  modify fun s => { s with work := { s.work with cb := s.image.plane.readBlock u.ci u.row u.col } }

/-- The data units of an MCU in order (spec R250). -/
def encodeUnits : List DataUnit → Proc Unit
  | [] => return ()
  | u :: us => do
    loadBlock u
    encodeBlock u.ci u.td u.ta
    encodeUnits us

/-- What happens before the data units of MCU `mcu` (spec R250, R260). -/
def encodeMcuBegin (mcu : Nat) : Proc Unit := do
  modifyWork fun w => { w with mcu := mcu }
  pollCancel fun s => s.work.mcu
  if restartDue (← get).image.ri mcu then emitRestart

/-- The MCU loop of `encode_scan`: `n` MCUs from number `mcu` on (spec R250). -/
def encodeMcus (sc : List ScanComp) (mcu : Nat) : Nat → Proc Unit
  | 0 => modifyWork fun w => { w with mcu := mcu }
  | n + 1 => do
    encodeMcuBegin mcu
    encodeUnits (mcuUnits (← get).image.frame sc mcu)
    encodeMcus sc (mcu + 1) n

/-- `encode_scan()` (spec R250). -/
def encodeScan : Proc Unit := do
  scanBegin
  let im := (← get).image
  encodeMcus im.scan0.sc 0 im.frame.mcuCount

/-- `finalize()` (spec R257). -/
def finalize : Proc Unit := do
  flushWithPadding
  putRaw [0xFF, 0xD9]

/-- A refusal of ENCODE before anything is written: `OUT <- empty` all the same (spec R259, R323). -/
def refuseEncode (reason : Reason) : Proc Unit := do
  modifyWriter fun w => { w with out := [] }
  refuse reason

/-- `ENCODE()` (spec R241, R242). -/
def encodeCommandProc : Proc Unit := do
  let s ← get
  if s.status.phase ≠ .decoded then refuseEncode .badPhase
  else if s.image.nscan ≠ 1 then refuseEncode .scanCount
  else do
    setPhase .busyEnc .command
    modifyWriter fun w => { w with out := [] }
    bwReset
    emitSoi
    emitPreserved
    emitDqt
    emitDht
    emitSof0
    emitDri
    emitSos
    encodeScan
    finalize
    setPhase .decoded .command

/-- The row `ENCODE` (spec R241). -/
def execEncode (s : State) : Host.Outcome State Fault Refusal := runUnit encodeCommandProc s

/-- The row `emit_soi` (spec R243). -/
def execEmitSoi (s : State) : Host.Outcome State Fault Refusal := runUnit emitSoi s

/-- The row `emit_preserved` (spec R244). -/
def execEmitPreserved (s : State) : Host.Outcome State Fault Refusal := runUnit emitPreserved s

/-- The row `emit_dqt` (spec R245); without a scan record it is refused: DESIGN CHOICE, log entry 10. -/
def execEmitDqt (s : State) : Host.Outcome State Fault Refusal :=
  runUnit (do require (s.image.scans ≠ []) .noScanRecord; emitDqt) s

/-- The row `emit_dht` (spec R246); without a scan record it is refused: DESIGN CHOICE, log entry 10. -/
def execEmitDht (s : State) : Host.Outcome State Fault Refusal :=
  runUnit (do require (s.image.scans ≠ []) .noScanRecord; emitDht) s

/-- The row `emit_sof0` (spec R247). -/
def execEmitSof0 (s : State) : Host.Outcome State Fault Refusal := runUnit emitSof0 s

/-- The row `emit_dri` (spec R248). -/
def execEmitDri (s : State) : Host.Outcome State Fault Refusal := runUnit emitDri s

/-- The row `emit_sos` (spec R249); without a scan record it is refused: DESIGN CHOICE, log entry 10. -/
def execEmitSos (s : State) : Host.Outcome State Fault Refusal :=
  runUnit (do require (s.image.scans ≠ []) .noScanRecord; emitSos) s

/-- The row `encode_scan` (spec R250: the writer is empty, `wcnt = 0`); without a scan record it is refused: DESIGN CHOICE,
log entry 10. Run alone with bits gathered it goes on from them: DESIGN CHOICE, log entry 26. -/
def execEncodeScan (s : State) : Host.Outcome State Fault Refusal :=
  runUnit (do require (s.image.scans ≠ []) .noScanRecord; encodeScan) s

/-- The row `encode_block` (spec R251). -/
def execEncodeBlock (ci td ta : Slot) (s : State) : Host.Outcome State Fault Refusal := runUnit (encodeBlock ci td ta) s

/-- The row `encode_dc` (spec R252). -/
def execEncodeDc (ci td : Slot) (s : State) : Host.Outcome State Fault Refusal := runUnit (encodeDc ci td) s

/-- The row `size` (spec R253). -/
def execSize (v : Int) (s : State) : Host.Outcome State Fault Refusal := runPure (.nat (size v)) s

/-- The row `magbits` (spec R254: `S = size(v)`). With another `S` the result is a free value: DESIGN CHOICE, log entry
22. -/
def execMagbits (v : Int) (sz : Nat) (s : State) : Host.Outcome State Fault Refusal :=
  runPure (.nat (if sz = size v then magbits v sz else Config.magbitsUnstated v sz)) s

/-- The row `encode_ac` (spec R255). -/
def execEncodeAc (ta : Slot) (s : State) : Host.Outcome State Fault Refusal := runUnit (encodeAc ta) s

/-- The row `emit_restart` (spec R256). -/
def execEmitRestart (s : State) : Host.Outcome State Fault Refusal := runUnit emitRestart s

/-- The row `finalize` (spec R257). -/
def execFinalize (s : State) : Host.Outcome State Fault Refusal := runUnit finalize s

end Sys2Proof.Machine
end

