-- ==== Sys2Proof/Machine/Commands.lean ====
section
/-! DEFINITION. The other host commands: RESET, the quantisation unit's DEQUANT and QUANT, the coefficient cells, and the
reserved codes (spec R99, R282, R283, R350). -/

namespace Sys2Proof.Machine

/-- A command that is legal in `DECODED` alone, on a block or cell address that must be in range (spec R99, R282): the
phase is checked first, then the address. -/
def onDecoded {α : Type} (inRange : Frame → Bool) (body : Proc α) : Proc α := do
  let s ← get
  if s.status.phase ≠ .decoded then refuse .badPhase
  else if inRange s.image.frame = false then refuse .badOperand
  else body

/-- The quantisation table of a component, which must be valid (spec R281, R282). -/
def tableOf (c : Nat) : Proc (Vector Half 64) := do
  let im := (← get).image
  let slot := im.qt[(im.frame.comp c).tq]
  if slot.valid then return slot.q else refuse .missingTable

/-- The products of a block's coefficients with the table's entries (spec R282). -/
def dequantized (cells : Vector Int 64) (q : Vector Half 64) : Vector Int 64 :=
  Vector.ofFn fun i : Fin 64 => cells[i] * (q[i].toNat : Int)

/-- The integers nearest to the quotients by the table's entries (spec R283). -/
def quantized (d : Vector Int 64) (q : Vector Half 64) : Vector Int 64 :=
  Vector.ofFn fun i : Fin 64 => rdiv d[i] q[i].toNat

/-- `DEQUANT(c, by, bx)` (spec R282: no state changes). It leaves `CB` alone, R24 notwithstanding: DEDUCED, log entry 20. -/
def dequantProc (c row col : Nat) : Proc (Vector Int 64) :=
  onDecoded (fun f => f.hasBlock c row col) do
    let q ← tableOf c
    return dequantized ((← get).image.plane.readBlock c row col) q

/-- `QUANT(c, by, bx, D)`: a zero table entry is refused before any cell is written (spec R283). It writes cells only (R37,
R355) and leaves `CB` alone, R24 notwithstanding: DEDUCED, log entry 20. -/
def quantProc (c row col : Nat) (d : Vector Int 64) : Proc Unit :=
  onDecoded (fun f => f.hasBlock c row col) do
    let q ← tableOf c
    if q.toList.any fun e => e == 0 then refuse .divideByZero
    else modifyImage fun im => { im with plane := im.plane.writeBlock c row col (quantized d q) }

/-- `RDCOEF(c, by, bx, i)` (spec R99). -/
def rdcoefProc (c row col i : Nat) : Proc Int :=
  onDecoded (fun f => f.hasCell c row col i) do
    return (← get).image.plane.read (cellAddr c row col i)

/-- `WRCOEF(c, by, bx, i, v)` (spec R99). -/
def wrcoefProc (c row col i : Nat) (v : Int) : Proc Unit :=
  onDecoded (fun f => f.hasCell c row col i)
    (modifyImage fun im => { im with plane := im.plane.write (cellAddr c row col i) v })

/-- The row `RESET` (spec R350). -/
def execReset (s : State) : Host.Outcome State Fault Refusal := .next (resetBlock s)

/-- The row `DEQUANT` (spec R282). -/
def execDequant (c row col : Nat) (s : State) : Host.Outcome State Fault Refusal :=
  runProc Value.coefs (dequantProc c row col) s

/-- The row `QUANT` (spec R283). -/
def execQuant (c row col : Nat) (d : Vector Int 64) (s : State) : Host.Outcome State Fault Refusal :=
  runUnit (quantProc c row col d) s

/-- The row `RDCOEF` (spec R99). -/
def execRdcoef (c row col i : Nat) (s : State) : Host.Outcome State Fault Refusal :=
  runProc Value.int (rdcoefProc c row col i) s

/-- The row `WRCOEF` (spec R99). -/
def execWrcoef (c row col i : Nat) (v : Int) (s : State) : Host.Outcome State Fault Refusal :=
  runUnit (wrcoefProc c row col i v) s

/-- The row of the reserved command codes: refused with `BadOperand` in every phase (spec R99). -/
def execReservedCommand (_code : Byte) (s : State) : Host.Outcome State Fault Refusal := runUnit (refuse .badOperand) s

/-- The row `rdiv` (spec R283: `q > 0`). With `q = 0` the result is a free value: DESIGN CHOICE, log entry 22. -/
def execRdiv (a : Int) (q : Nat) (s : State) : Host.Outcome State Fault Refusal :=
  runPure (.int (if 0 < q then rdiv a q else Config.rdivByZero a)) s

end Sys2Proof.Machine
end

