-- ==== Sys2Proof/Machine/HostAgent.lean ====
section
/-! DEFINITION. The host agent of 46_host_dctdm.md: the DCTDM engine, the payload frame and the transform hook (spec R290
to R308). It stands outside the block and reaches it only through RDCOEF and WRCOEF (R302, R303). -/

namespace Sys2Proof.Machine

/-- `ε₁ = ⌊δ/4⌋` (spec R294). -/
def eps1 (delta : Nat) : Int := (delta / 4 : Nat)

/-- `ε₂ = ⌊3δ/4⌋` (spec R294). -/
def eps2 (delta : Nat) : Int := (3 * delta / 4 : Nat)

/-- `qround(D, δ)`: the nearest multiple's number, ties to even (spec R295). -/
def qround (d : Int) (delta : Nat) : Int :=
  let f := d / (delta : Int)
  let m := d - f * delta
  if 2 * m < delta then f
  else if 2 * m > delta then f + 1
  else if f % 2 = 0 then f else f + 1

/-- The target difference `D′` for two payload bits (spec R296). -/
def targetDiff (d : Int) (delta : Nat) (b1 b2 : Bool) : Int :=
  let base := qround d delta * delta
  match b1, b2 with
  | false, false => base + eps1 delta
  | false, true => base + eps2 delta
  | true, false => base - eps2 delta
  | true, true => base - eps1 delta

/-- `clamp(n, -1024, 1023)` (spec R297). -/
def clampCoef (n : Int) : Int := min (max n (-1024)) 1023

/-- `embed_pair`: the new pair, or `none` for skip (spec R296, R297). -/
def embedPair (delta : Nat) (a1 a2 : Int) (b1 b2 : Bool) : Option (Int × Int) :=
  let d := a1 - a2
  let d' := targetDiff d delta b1 b2
  let x := d' - d
  let c1 := clampCoef (a1 + -(-x / 2))
  let c2 := clampCoef (a2 - x / 2)
  if c1 - c2 = d' then some (c1, c2) else none

/-- `extract_pair`: the two bits (spec R299). -/
def extractPair (delta : Nat) (a1 a2 : Int) : Bool × Bool :=
  let d := a1 - a2
  let r := d - qround d delta * delta
  if 2 * r.natAbs < delta then (if 0 ≤ r then (false, false) else (true, true))
  else if 0 < r then (false, true) else (true, false)

/-- `frame(P) = be32(|P|) ‖ P` (spec R300). -/
def frameBytes (payload : List Byte) : List Byte := natBytes32 payload.length ++ payload

/-- The configurations the host runs with: `δ ≥ 1`, `K` even, `2 ≤ K ≤ 62` (spec R290). -/
def AgentConfig.legal (c : AgentConfig) : Bool := 1 ≤ c.delta && 2 ≤ c.k && c.k ≤ 62 && c.k % 2 = 0

/-- How a host procedure ends when it does not end ok: it fails with a kind and context, after it has written cells or
not (spec R302 to R304); or it refuses to run (R290, R291). -/
inductive HostStop where
  | fail (kind : ErrKind) (context : Nat) (written : Bool)
  | notRun
deriving DecidableEq, Repr

/-- A procedure of the host agent. -/
abbrev HostProc := EStateM HostStop State

/-- How the host agent takes a failure: it records it, and after a failure that left cells written it discards the image
state by issuing `RESET` (spec R302: partial outputs are never emitted). -/
def takeHostStop (e : HostStop) (s : State) : State :=
  match e with
  | .fail kind context written =>
    let s' := if written then resetBlock s else s
    { s' with agent := { s'.agent with status := .failed kind context }, port := { s'.port with result := .none } }
  | .notRun => { s with agent := { s.agent with status := .refusedToRun }, port := { s.port with result := .none } }

/-- Runs a host procedure as an instruction. -/
def runHost {α : Type} (value : α → Value) (p : HostProc α) (s : State) : Host.Outcome State Fault Refusal :=
  match p.run s with
  | .ok a s' => .next { s'.returning (value a) with agent := { s'.agent with status := .ok } }
  | .error e s' => .next (takeHostStop e s')

/-- The host samples its own cancellation token (spec R302, R328). -/
def hostCancelled : HostProc Bool := do
  let s ← get
  set { s with port := { s.port with cancel := s.port.cancel.tail } }
  return s.port.cancel.headD false

/-- The target component, when the block is in `DECODED`, the configuration is legal and a frame component has the
configured id; otherwise the host refuses to run before touching anything (spec R290, R291, R302). -/
def hostTarget : HostProc Slot := do
  let s ← get
  if s.status.phase ≠ .decoded || s.agent.config.legal = false then throw .notRun
  else
    match s.image.frame.findComp s.agent.config.component with
    | none => throw .notRun
    | some t => return t

/-- The number of blocks of the nominal grid, `luma_blocks` (spec R293). -/
def lumaBlocks (f : Frame) (t : Slot) : Nat := f.nw t * f.nh t

/-- `npairs` (spec R293). -/
def pairCount (f : Frame) (t : Slot) (k : Nat) : Nat := lumaBlocks f t * (k / 2)

/-- The addresses of the two cells of a pair, by its pair index: blocks of the nominal grid in raster order, then the
pairs `(1,2), (3,4), …` of the block (spec R292, R293). -/
def pairCells (f : Frame) (t : Slot) (k idx : Nat) : Nat × Nat :=
  let block := idx / (k / 2)
  let q := idx % (k / 2)
  let row := block / f.nw t
  let col := block % f.nw t
  (cellAddr t row col (2 * q + 1), cellAddr t row col (2 * q + 2))

/-- RDCOEF of the two cells of a pair (spec R302, R303). -/
def readPair (t : Slot) (idx : Nat) : HostProc (Int × Int) := do
  let s ← get
  let p := pairCells s.image.frame t s.agent.config.k idx
  return (s.image.plane.read p.1, s.image.plane.read p.2)

/-- WRCOEF of the two cells of a pair (spec R302). -/
def writePair (t : Slot) (idx : Nat) (v : Int × Int) : HostProc Unit :=
  modify fun s =>
    let p := pairCells s.image.frame t s.agent.config.k idx
    { s with image := { s.image with plane := (s.image.plane.write p.1 v.1).write p.2 v.2 } }

/-- The pair loop of `embed`: `n` pairs from index `idx` on, the frame bits still to embed, whether a pair was skipped by
clamping and whether cells were written (spec R302). The context of the final failure is the last pair's index: DESIGN
CHOICE, log entry 4. -/
def embedFrom (t : Slot) (idx : Nat) (bits : List Bool) (clamped written : Bool) : Nat → HostProc Unit
  | 0 =>
    if bits = [] then return ()
    else throw (if clamped then .fail .clampingExhausted (idx - 1) written else .fail .payloadTooLarge 0 written)
  | n + 1 =>
    match bits with
    | b1 :: b2 :: rest => do
      if ← hostCancelled then throw (.fail .cancelled idx written)
      else
        let a ← readPair t idx
        let cfg := (← get).agent.config
        if cfg.skipZero && a.1 = 0 && a.2 = 0 then embedFrom t (idx + 1) bits clamped written n
        else
          match embedPair cfg.delta a.1 a.2 b1 b2 with
          | none => embedFrom t (idx + 1) bits true written n
          | some v => do
            writePair t idx v
            embedFrom t (idx + 1) rest clamped true n
    | _ => return ()

/-- `embed(P)` (spec R301, R302). -/
def embed (payload : List Byte) : HostProc Unit := do
  let t ← hostTarget
  let s ← get
  let k := s.agent.config.k
  if lumaBlocks s.image.frame t * k / 8 < payload.length + 4 then throw (.fail .payloadTooLarge 0 false)
  else embedFrom t 0 (bytesToBits (frameBytes payload)) false false (pairCount s.image.frame t k)

/-- Reads `need` bit-pairs from the pairs `idx` on, `n` of them left; the value is the bits and the next index (spec
R303). -/
def takePairs (t : Slot) (need idx : Nat) (acc : List Bool) : Nat → HostProc (List Bool × Nat)
  | 0 => if need = 0 then return (acc, idx) else throw (.fail .payloadTruncated 0 false)
  | n + 1 =>
    if need = 0 then return (acc, idx)
    else do
      if ← hostCancelled then throw (.fail .cancelled idx false)
      else
        let a ← readPair t idx
        let cfg := (← get).agent.config
        if cfg.skipZero && a.1 = 0 && a.2 = 0 then takePairs t need (idx + 1) acc n
        else
          let b := extractPair cfg.delta a.1 a.2
          takePairs t (need - 1) (idx + 1) (acc ++ [b.1, b.2]) n

/-- A byte string from its bits, `n` bytes (spec R303). -/
def bitsToBytes (bits : List Bool) : Nat → List Byte
  | 0 => []
  | n + 1 => BitVec.ofNat 8 (bitsToNat (bits.take 8)) :: bitsToBytes (bits.drop 8) n

/-- `extract()` (spec R303). -/
def extract : HostProc (List Byte) := do
  let t ← hostTarget
  let s ← get
  let npairs := pairCount s.image.frame t s.agent.config.k
  let header ← takePairs t 16 0 [] npairs
  let len := bitsToNat header.1
  if 2 * (npairs - 16) < 8 * len then throw (.fail .invalidLength 0 false)
  else do
    let body ← takePairs t (4 * len) header.2 [] (npairs - header.2)
    return bitsToBytes body.1 len

/-- The transform the host applies to a payload (spec R307). -/
inductive Transform where
  | identity
  | passphrase (pw : List Byte)
deriving DecidableEq, Repr

/-- `seal(plaintext, passphrase?)`: with a passphrase, the 16 random bytes of salt and the ciphertext (spec R307, R308). -/
def sealPayload (tr : Transform) (salt : Vector Byte 16) (plaintext : List Byte) : List Byte :=
  match tr with
  | .identity => plaintext
  | .passphrase pw => salt.toList ++ Config.scheme.aead salt pw plaintext

/-- `open(bytes, passphrase?)`; what is shorter than a salt is `MalformedCiphertext`: DEDUCED from the layout of R308, log
entry 14 (spec R307, R308). -/
def openPayload (tr : Transform) (bytes : List Byte) : Except ErrKind (List Byte) :=
  match tr with
  | .identity => .ok bytes
  | .passphrase pw =>
    if bytes.length < 16 then .error .malformedCiphertext
    else
      match Config.scheme.openAead (Vector.ofFn fun i : Fin 16 => bytes.getD i.val 0) pw (bytes.drop 16) with
      | .plaintext plaintext => .ok plaintext
      | .authenticationFailed => .error .authenticationFailed
      | .malformedCiphertext => .error .malformedCiphertext

/-- The next state of an outcome, or the state before. -/
def stateAfter (s : State) : Host.Outcome State Fault Refusal → State
  | .next s' => s'
  | .fault _ => s
  | .refused _ => s

/-- The row `qround` (spec R295: `δ ≥ 1`). With `δ = 0` the result is a free value: DESIGN CHOICE, log entry 22. -/
def execQround (d : Int) (delta : Nat) (s : State) : Host.Outcome State Fault Refusal :=
  runPure (.int (if 1 ≤ delta then qround d delta else Config.qroundByZero d)) s

/-- The row `embed_pair` (spec R296, R297), with the host's `δ`. -/
def execEmbedPair (a1 a2 : Int) (b1 b2 : Bool) (s : State) : Host.Outcome State Fault Refusal :=
  runHost Value.pair (do
    let cfg := (← get).agent.config
    if cfg.legal then return embedPair cfg.delta a1 a2 b1 b2 else throw .notRun) s

/-- The row `extract_pair` (spec R299), with the host's `δ`. -/
def execExtractPair (a1 a2 : Int) (s : State) : Host.Outcome State Fault Refusal :=
  runHost (fun b : Bool × Bool => Value.bits [b.1, b.2]) (do
    let cfg := (← get).agent.config
    if cfg.legal then return extractPair cfg.delta a1 a2 else throw .notRun) s

/-- The row `frame` (spec R300: `|P| < 2^32`). For a longer payload the four bytes of the length are free and the payload
follows them: DESIGN CHOICE, log entry 22. -/
def execFrame (payload : List Byte) (s : State) : Host.Outcome State Fault Refusal :=
  runPure (.bytes (if payload.length < 2 ^ 32 then frameBytes payload
    else (Config.lengthUnstated payload.length).toList ++ payload)) s

/-- The row `embed` (spec R302). -/
def execEmbed (payload : List Byte) (s : State) : Host.Outcome State Fault Refusal :=
  runHost (fun _ => Value.none) (embed payload) s

/-- The row `extract` (spec R303). -/
def execExtract (s : State) : Host.Outcome State Fault Refusal := runHost Value.bytes extract s

/-- The host's embed flow: `RESET; DECODE(B); embed(seal(P, pw)); ENCODE` and then `OUT` (spec R305). Each part runs
whatever the one before it left; the host looks at `PHASE` and its own status between them. -/
def embedFlow (jpeg payload : List Byte) (tr : Transform) (salt : Vector Byte 16) (s : State) : State :=
  let s1 := resetBlock s
  let s2 := stateAfter s1 (execDecode jpeg s1)
  let s3 := stateAfter s2 (execEmbed (sealPayload tr salt payload) s2)
  if s2.status.phase = .decoded && s3.agent.status = .ok then stateAfter s3 (execEncode s3) else s3

/-- The host's extract flow: `RESET; DECODE(B′); extract(); open(·, pw)` (spec R305). The result is the plaintext, or the
host's status says why there is none. -/
def extractFlow (jpeg : List Byte) (tr : Transform) (s : State) : State :=
  let s1 := resetBlock s
  let s2 := stateAfter s1 (execDecode jpeg s1)
  let s3 := stateAfter s2 (execExtract s2)
  match s3.agent.status, s3.port.result with
  | .ok, .bytes framed =>
    match openPayload tr framed with
    | .ok plaintext => s3.returning (.bytes plaintext)
    | .error kind => { s3.returning .none with agent := { s3.agent with status := .failed kind 0 } }
  | _, _ => s3

end Sys2Proof.Machine
end

