-- ==== Sys2Proof/Machine/Dispatch.lean ====
section
/-! DEFINITION. The meaning of every instruction: one arm per constructor. -/

namespace Sys2Proof.Machine

/-- What an instruction does in a state. -/
def exec (i : Instr) (s : State) : Host.Outcome State Fault Refusal :=
  match i with
  | .reset => Sys2Proof.Machine.execReset s
  | .decode buf => Sys2Proof.Machine.execDecode buf s
  | .encode => Sys2Proof.Machine.execEncode s
  | .dequant c row col => Sys2Proof.Machine.execDequant c row col s
  | .quant c row col d => Sys2Proof.Machine.execQuant c row col d s
  | .rdcoef c row col idx => Sys2Proof.Machine.execRdcoef c row col idx s
  | .wrcoef c row col idx v => Sys2Proof.Machine.execWrcoef c row col idx v s
  | .reservedCommand code => Sys2Proof.Machine.execReservedCommand code s
  | .soi => Sys2Proof.Machine.execSoi s
  | .eoi => Sys2Proof.Machine.execEoi s
  | .sof0 => Sys2Proof.Machine.execSof0 s
  | .sof1 => Sys2Proof.Machine.execSof1 s
  | .sof2 => Sys2Proof.Machine.execSof2 s
  | .sof3 => Sys2Proof.Machine.execSof3 s
  | .sof5 => Sys2Proof.Machine.execSof5 s
  | .sof6 => Sys2Proof.Machine.execSof6 s
  | .sof7 => Sys2Proof.Machine.execSof7 s
  | .sof9 => Sys2Proof.Machine.execSof9 s
  | .sof10 => Sys2Proof.Machine.execSof10 s
  | .sof11 => Sys2Proof.Machine.execSof11 s
  | .sof13 => Sys2Proof.Machine.execSof13 s
  | .sof14 => Sys2Proof.Machine.execSof14 s
  | .sof15 => Sys2Proof.Machine.execSof15 s
  | .jpg => Sys2Proof.Machine.execJpg s
  | .dht => Sys2Proof.Machine.execDht s
  | .dac => Sys2Proof.Machine.execDac s
  | .rst n => Sys2Proof.Machine.execRst n s
  | .sos => Sys2Proof.Machine.execSos s
  | .dqt => Sys2Proof.Machine.execDqt s
  | .dri => Sys2Proof.Machine.execDri s
  | .app n => Sys2Proof.Machine.execApp n s
  | .com => Sys2Proof.Machine.execCom s
  | .dnl => Sys2Proof.Machine.execDnl s
  | .dhp => Sys2Proof.Machine.execDhp s
  | .exp => Sys2Proof.Machine.execExp s
  | .jpgLow n => Sys2Proof.Machine.execJpgLow n s
  | .jpgMid n => Sys2Proof.Machine.execJpgMid n s
  | .jpgHigh n => Sys2Proof.Machine.execJpgHigh n s
  | .illegalMarker m => Sys2Proof.Machine.execIllegalMarker m s
  | .notACode => Sys2Proof.Machine.execNotACode s
  | .fill => Sys2Proof.Machine.execFill s
  | .dcSize sz => Sys2Proof.Machine.execDcSize sz s
  | .illegalDc sym => Sys2Proof.Machine.execIllegalDc sym s
  | .eob => Sys2Proof.Machine.execEob s
  | .zrl => Sys2Proof.Machine.execZrl s
  | .acRunSize r sz => Sys2Proof.Machine.execAcRunSize r sz s
  | .stuff => Sys2Proof.Machine.execStuff s
  | .pad n => Sys2Proof.Machine.execPad n s
  | .brAttach p => Sys2Proof.Machine.execBrAttach p s
  | .fetchByte => Sys2Proof.Machine.execFetchByte s
  | .readBit => Sys2Proof.Machine.execReadBit s
  | .readBits n => Sys2Proof.Machine.execReadBits n s
  | .peekMarker => Sys2Proof.Machine.execPeekMarker s
  | .alignToByte => Sys2Proof.Machine.execAlignToByte s
  | .readMarker => Sys2Proof.Machine.execReadMarker s
  | .bwReset => Sys2Proof.Machine.execBwReset s
  | .emitByte b => Sys2Proof.Machine.execEmitByte b s
  | .writeBits value n => Sys2Proof.Machine.execWriteBits value n s
  | .flushWithPadding => Sys2Proof.Machine.execFlushWithPadding s
  | .putRaw bytes => Sys2Proof.Machine.execPutRaw bytes s
  | .buildTable counts values => Sys2Proof.Machine.execBuildTable counts values s
  | .huffDecode tc th => Sys2Proof.Machine.execHuffDecode tc th s
  | .huffEncode tc th sym => Sys2Proof.Machine.execHuffEncode tc th sym s
  | .checkSoi => Sys2Proof.Machine.execCheckSoi s
  | .walk => Sys2Proof.Machine.execWalk s
  | .readSegment => Sys2Proof.Machine.execReadSegment s
  | .decodeScan => Sys2Proof.Machine.execDecodeScan s
  | .decodeBlock ci td ta => Sys2Proof.Machine.execDecodeBlock ci td ta s
  | .decodeDc ci td => Sys2Proof.Machine.execDecodeDc ci td s
  | .decodeAc ta => Sys2Proof.Machine.execDecodeAc ta s
  | .extend bits sz => Sys2Proof.Machine.execExtend bits sz s
  | .restart => Sys2Proof.Machine.execRestart s
  | .emitSoi => Sys2Proof.Machine.execEmitSoi s
  | .emitPreserved => Sys2Proof.Machine.execEmitPreserved s
  | .emitDqt => Sys2Proof.Machine.execEmitDqt s
  | .emitDht => Sys2Proof.Machine.execEmitDht s
  | .emitSof0 => Sys2Proof.Machine.execEmitSof0 s
  | .emitDri => Sys2Proof.Machine.execEmitDri s
  | .emitSos => Sys2Proof.Machine.execEmitSos s
  | .encodeScan => Sys2Proof.Machine.execEncodeScan s
  | .encodeBlock ci td ta => Sys2Proof.Machine.execEncodeBlock ci td ta s
  | .encodeDc ci td => Sys2Proof.Machine.execEncodeDc ci td s
  | .size v => Sys2Proof.Machine.execSize v s
  | .magbits v sz => Sys2Proof.Machine.execMagbits v sz s
  | .encodeAc ta => Sys2Proof.Machine.execEncodeAc ta s
  | .emitRestart => Sys2Proof.Machine.execEmitRestart s
  | .finalize => Sys2Proof.Machine.execFinalize s
  | .rdiv a q => Sys2Proof.Machine.execRdiv a q s
  | .qround d delta => Sys2Proof.Machine.execQround d delta s
  | .embedPair a1 a2 b1 b2 => Sys2Proof.Machine.execEmbedPair a1 a2 b1 b2 s
  | .extractPair a1 a2 => Sys2Proof.Machine.execExtractPair a1 a2 s
  | .frame payload => Sys2Proof.Machine.execFrame payload s
  | .embed payload => Sys2Proof.Machine.execEmbed payload s
  | .extract => Sys2Proof.Machine.execExtract s

end Sys2Proof.Machine
end

