-- ==== Sys2Proof/Machine/Fetch.lean ====
section
/-! DEFINITION. Fetching the next instruction at the level the block is at (spec R80), what follows an instruction's own
effect, and the states in which a table word is the next instruction. The commands run whole (spec R27, U11); the other
levels are fetched one instruction at a time in a state where a decode is in progress. -/

namespace Sys2Proof.Machine

/-- What a fetch answers. -/
inductive Fetched where
  /-- an instruction, and the state just past it -/
  | run (i : Instr) (s : State)
  /-- the fetch itself ends the command -/
  | stopped (e : Stop) (s : State)
  /-- no instruction stands here: the block is idle, or moves on by itself -/
  | internal (s : State)
deriving DecidableEq, Repr

/-- The fetch a procedure makes. -/
def Fetched.ofResult : EStateM.Result Stop State Instr → Fetched
  | .ok i s => .run i s
  | .error e s => .stopped e s

/-- Level C: the oldest command the host has issued; without one the block is idle (spec R68, R99, R333). -/
def fetchCommand (s : State) : Fetched :=
  match s.port.requests with
  | [] => .internal s
  | r :: rs => .run (decodeCommand r) { s with port := { s.port with requests := rs } }

/-- Level M at the start of the stream: the SOI marker, exactly at offset 0 (spec R181). -/
def fetchSoi : Proc Instr := do
  let r := (← get).reader
  if r.inlen < 2 then raise .unexpectedEndOfStream r.inlen
  else if r.byte? 0 ≠ some 0xFF || r.byte? 1 ≠ some 0xD8 then raise .invalidMarker 0
  else do
    modifyReader fun r => { r with rp := 2, rcnt := 0 }
    modifyWalk fun w => { w with mpos := 0, fills := 0 }
    return .soi

/-- Level M: one fill byte at a time, then the marker (spec R81, R136, R182). -/
def fetchMarker : Proc Instr := do
  let r := (← get).reader
  match r.byte? r.rp, r.byte? (r.rp + 1) with
  | some b, some m =>
    if b = 0xFF && m = 0xFF then return .fill
    else if b = 0xFF && m = 0x00 then do
      setMpos
      modifyReader fun r => { r with rp := r.rp + 2, rcnt := 0 }
      return .notACode
    else do
      setMpos
      let m ← readMarker
      return decodeMarkerCode m
  | _, _ => do
    setMpos
    let m ← readMarker
    return decodeMarkerCode m

/-- The restart marker due before an MCU (spec R203). -/
def fetchRestart : Proc Instr := do
  alignToByte
  let r := (← get).reader
  if r.byte? r.rp ≠ some 0xFF then raise .missingRestartMarker r.rp
  else
    let p := r.skipFill r.rp
    match (r.byte? p).map decodeMarkerCode with
    | some (.rst n) => do
      setMpos
      modifyReader fun r => { r with rp := p + 1 }
      return .rst n
    | _ => raise .missingRestartMarker r.rp

/-- Whether the escape `FF 00` stands at `rp` with no bits left (spec R91). -/
def Reader.atStuff (r : Reader) : Bool :=
  r.rcnt = 0 && r.byte? r.rp = some 0xFF && r.byte? (r.rp + 1) = some 0x00

/-- The DC symbol of the data unit (spec R200). -/
def fetchDc (s : State) : Fetched :=
  if s.reader.atStuff then .run .stuff s
  else .ofResult ((do return decodeDcSymbol (← huffDecode .dc s.walk.du.td) : Proc Instr).run s)

/-- The next AC symbol of the data unit (spec R201). -/
def fetchAc (s : State) : Fetched :=
  if s.reader.atStuff then .run .stuff s
  else .ofResult ((do return decodeAcSymbol (← huffDecode .ac s.walk.du.ta) : Proc Instr).run s)

/-- The next data unit of the MCU begins with `CB` cleared (spec R199); after the last one the next MCU begins. -/
def nextUnit (s : State) : State :=
  match s.walk.units with
  | u :: us =>
    { s with
      work := { s.work with cb := Vector.replicate 64 0 }
      walk := { s.walk with level := .dc, du := u, units := us } }
  | [] => { s with work := { s.work with mcu := s.work.mcu + 1 }, walk := { s.walk with level := .mcu } }

/-- The data units of the current MCU (spec R197). -/
def startUnits (s : State) : State :=
  nextUnit { s with walk := { s.walk with units := mcuUnits s.image.frame s.image.lastScan.sc s.work.mcu } }

/-- The data unit being decoded is complete: it is stored, and the next one begins (spec R197, R198). -/
def unitDone (s : State) : State :=
  let u := s.walk.du
  nextUnit { s with image := { s.image with plane := s.image.plane.writeBlock u.ci u.row u.col s.work.cb } }

/-- The start of an MCU: `CANCEL` is sampled and a restart marker fetched if one is due; after the last MCU the bits left
of the byte are padding and the walk goes on (spec R197, R203, R204, R206). -/
def fetchMcu (s : State) : Fetched :=
  if s.work.mcu < s.image.frame.mcuCount then
    match (pollCancel fun t => t.reader.rp).run s with
    | .error e t => .stopped e t
    | .ok _ t =>
      if restartDue t.image.ri t.work.mcu then .ofResult (fetchRestart.run t) else .internal (startUnits t)
  else if 1 ≤ s.reader.rcnt && s.reader.rcnt ≤ 7 then .run (.pad s.reader.rcnt) s
  else .internal { s with reader := { s.reader with rcnt := 0 }, walk := { s.walk with level := .marker } }

/-- Fetching: in a running decode at its level, otherwise from the host's commands. -/
def fetch (s : State) : Fetched :=
  match s.status.phase with
  | .busyDec =>
    match s.walk.level with
    | .command => fetchCommand s
    | .marker => .ofResult ((if s.image.fSoi then fetchMarker else fetchSoi).run s)
    | .mcu => fetchMcu s
    | .dc => fetchDc s
    | .ac => fetchAc s
  | .idle | .busyEnc | .decoded | .failed | .refused => fetchCommand s

/-- What follows the effect of instruction `i`, fetched at level `l`, while the decode goes on: the walk ends with EOI
(spec R180), a data unit's AC symbols follow its DC symbol (R199), and a complete data unit is stored (R197). -/
def complete (l : Level) (i : Instr) (t : State) : State :=
  match t.status.phase with
  | .busyDec =>
    match l with
    | .command => t
    | .marker =>
      if t.image.fEoi then
        { t with status := { t.status with phase := .decoded }, walk := { t.walk with level := .command } }
      else t
    | .mcu => (match i with | .rst _ => startUnits t | _ => t)
    | .dc =>
      (match i with
       | .stuff => t
       | _ => { t with work := { t.work with k := 1 }, walk := { t.walk with level := .ac } })
    | .ac =>
      (match i with
       | .stuff => t
       | .eob => unitDone t
       | _ => if 63 < t.work.k then unitDone t else t)
  | .idle | .busyEnc | .decoded | .failed | .refused => t

/-- A Huffman table with one symbol, whose code is the single bit 0. -/
def oneSymbolTable (sym : Byte) : HuffSlot :=
  { valid := true, counts := (Vector.replicate 16 0).set 0 1, values := [sym] }

/-- The state with a decode in progress at a level, over an input buffer and a position. -/
def State.decodingAt (s : State) (l : Level) (inp : List Byte) (rp : Nat) : State :=
  { s with
    reader := { inp, rp, racc := 0, rcnt := 0 }
    status := { s.status with phase := .busyDec }
    walk := { s.walk with level := l, fills := 0 } }

/-- The state in which a code is what the next fetch reads. A command goes to the head of the commands issued. A marker
stands in a buffer at the place where the walk expects one: at its start for SOI, after an SOI otherwise. A symbol is the
only one of the data unit's table, and the buffer's bits are its code. -/
def State.placed (s : State) : Code → State
  | .command r =>
    { s with walk := { s.walk with level := .command }, port := { s.port with requests := r :: s.port.requests } }
  | .marker bytes =>
    let zeros := List.replicate 16 (0 : Byte)
    let atStart := bytes = [0xFF, 0xD8]
    let s' := if atStart then s.decodingAt .marker (bytes ++ zeros) 0
      else s.decodingAt .marker ([0xFF, 0xD8] ++ bytes ++ zeros) 2
    { s' with image := { s'.image with fSoi := !atStart } }
  | .dcSymbol sym =>
    let s' := s.decodingAt .dc (List.replicate 16 (0 : Byte)) 0
    { s' with image := s'.image.setHt .dc s'.walk.du.td (oneSymbolTable sym) }
  | .acSymbol sym =>
    let s' := s.decodingAt .ac (List.replicate 16 (0 : Byte)) 0
    { s' with image := s'.image.setHt .ac s'.walk.du.ta (oneSymbolTable sym) }
  | .dataBytes bytes => s.decodingAt .dc (bytes ++ List.replicate 16 (0 : Byte)) 0
  | .padding _ => s

end Sys2Proof.Machine
end

