-- ==== Sys2Proof/Machine/Step.lean ====
section
/-! DEFINITION. One step: fetch an instruction, do what it does, go on. -/

namespace Sys2Proof.Machine

/-- One step of the machine. Where no instruction stands the block moves on by itself or is idle; a fetch that ends the
command takes its stop; otherwise the instruction's effect, then what follows it. -/
def step (s : State) : Host.Outcome State Fault Refusal :=
  match fetch s with
  | .internal t => .next t
  | .stopped e t => .next (takeStop e t)
  | .run i t =>
    match exec i t with
    | .next t' => .next (complete s.walk.level i t')
    | .fault f => .fault f
    | .refused r => .refused r

/-- The state with a table word stored where `step` fetches its next instruction. -/
def State.withFetchWord (s : State) (nbits w : Nat) : State :=
  if nbits = 8 then s.placed (tableCode (BitVec.ofNat 8 w)) else s

end Sys2Proof.Machine
end

