-- ==== Sys2Proof/Safety.lean ====
section
/-! DEFINITION. What a legal state of the block is, and the terms the claims use: the bits the reader delivers, the bytes
a buffer holds at the read cursor, the bit string of a data unit and the byte string of an image (spec R21 to R36, R83,
R91, R92, R137, R242). None of it is run by `step`. -/

namespace Sys2Proof.Machine

/-- `0 ≤ rp ≤ INLEN` and `rcnt` in `0..8` (spec R22). -/
def Reader.ok (r : Reader) : Bool := r.rp ≤ r.inlen && r.rcnt ≤ 8

/-- `wcnt` in `0..7`, and the bits of `wacc` above the low `wcnt` are zero (spec R23). -/
def Writer.ok (w : Writer) : Bool := w.wcnt ≤ 7 && w.wacc.toNat < 2 ^ w.wcnt

/-- `k` in `1..64` (spec R24). -/
def Work.ok (w : Work) : Bool := 1 ≤ w.k && w.k ≤ 64

/-- Sampling factors in `1..HV_MAX` (spec R31). -/
def Comp.ok (c : Comp) : Bool :=
  1 ≤ c.h.toNat && c.h.toNat ≤ Config.samplingMax && 1 ≤ c.v.toNat && c.v.toNat ≤ Config.samplingMax

/-- The legal values of an accepted frame header: `P = 8`, `X` and `Y` not 0, `1..MAXC` components with distinct ids
(spec R31). -/
def Frame.ok (f : Frame) : Bool :=
  !f.valid || (f.p == Config.samplePrecision && f.y != 0 && f.x != 0 && 1 ≤ f.nf && f.nf ≤ Config.maxComponents &&
    f.comps.all Comp.ok && decide (f.comps.map Comp.c).Nodup)

/-- The legal values of a scan record: `1..MAXC` distinct components of the frame, and `(Ss, Se, Ah, Al) = (0, 63, 0,
0)` (spec R32). -/
def Scan.ok (f : Frame) (sc : Scan) : Bool :=
  1 ≤ sc.sc.length && sc.sc.length ≤ Config.maxComponents && sc.sc.all (fun c => c.ci.val < f.nf) &&
    decide (sc.sc.map ScanComp.ci).Nodup && sc.ss == 0 && sc.se == 63 && sc.ah == 0 && sc.al == 0

/-- 8-bit entries are below `2^8` (spec R33). -/
def QuantSlot.ok (slot : QuantSlot) : Bool :=
  !slot.valid || slot.pq == 1 || slot.q.toList.all (fun e => e.toNat < 256)

/-- As many values as the counts say, and no length with more codes than it can hold (spec R34, R162). -/
def HuffSlot.ok (slot : HuffSlot) : Bool :=
  !slot.valid || (slot.values.length == totalOf slot.counts && (buildTable slot.counts).isSome)

/-- The code bytes whose segments are captured: APPn, COM and the other non-essential ones (spec R184 to R186). -/
def capturedMarker (m : Byte) : Bool :=
  (0xE0 ≤ m.toNat && m.toNat ≤ 0xFE) || m == 0xDC || m == 0xDE || m == 0xDF

/-- A captured record: such a code byte, and a payload read under a 16-bit length (spec R36, R244). -/
def SegRecord.ok (r : SegRecord) : Bool := capturedMarker r.marker && r.payload.length ≤ 65533

/-- The frame, the scan records, the tables and the captured segments are legal, and no scan comes without a frame. -/
def Image.ok (im : Image) : Bool :=
  im.frame.ok && im.scans.all (Scan.ok im.frame) && (im.scans.isEmpty || im.frame.valid) &&
    im.qt.toList.all QuantSlot.ok && im.htDc.toList.all HuffSlot.ok && im.htAc.toList.all HuffSlot.ok &&
    im.seg.all SegRecord.ok

/-- Each register in its range. -/
def State.registersOk (s : State) : Bool := s.reader.ok && s.writer.ok && s.work.ok

/-- `ERR` and `RREASON` are written by a failure and a refusal alone, and the block's own kinds have codes below 10 (spec
R27, R29, R321). -/
def Status.ok (st : Status) : Bool :=
  match st.phase with
  | .idle | .busyDec | .busyEnc | .decoded => st.err == .none && st.rreason == none
  | .failed => st.err != .none && st.err.code ≤ 9 && st.rreason == none
  | .refused => st.err.code ≤ 9 && st.rreason != none

/-- The sequencing flags agree with each other and with the phase: EOI was accepted only after SOI and a scan, a scan
only after a frame, and `DECODED` is a decode that ended with EOI (spec R28, R207). -/
def State.flagsOk (s : State) : Bool :=
  (!s.image.fEoi || (s.image.fSoi && !s.image.scans.isEmpty)) && (s.image.scans.isEmpty || s.image.frame.valid) &&
    (s.status.phase != .decoded || s.image.fEoi)

/-- The status registers and the sequencing flags are consistent. -/
def State.statusOk (s : State) : Bool := s.status.ok && s.flagsOk

/-- The whole block is in a legal state. -/
def State.ok (s : State) : Bool := s.image.plane.wf && s.registersOk && s.image.ok && s.statusOk

/-- The reader after `fetch_byte`, when a data byte stands at `rp` (spec R131). -/
def Reader.fetched (r : Reader) : Option Reader :=
  match r.byte? r.rp, r.byte? (r.rp + 1) with
  | none, _ => none
  | some b, next =>
    if b ≠ 0xFF then some { r with racc := b, rp := r.rp + 1, rcnt := 8 }
    else if next = some 0x00 then some { r with racc := 0xFF, rp := r.rp + 2, rcnt := 8 }
    else none

/-- The next bit and the reader after it, when there is one (spec R132). -/
def Reader.nextBit (r : Reader) : Option (Bool × Reader) :=
  (if r.rcnt = 0 then r.fetched else some r).map fun r' =>
    (r'.racc.getLsbD (r'.rcnt - 1), { r' with rcnt := r'.rcnt - 1 })

/-- The next `n` bits and the reader after them, when there are as many (spec R133). -/
def Reader.takeBits (r : Reader) : Nat → Option (List Bool × Reader)
  | 0 => some ([], r)
  | n + 1 =>
    match r.nextBit with
    | none => none
    | some (b, r1) => (r1.takeBits n).map fun p => (b :: p.1, p.2)

/-- The data bytes of entropy-coded bytes: every `00` after `FF` removed, up to a marker, a last lone `FF` or the end
(spec R91, R137). -/
def destuff : List Byte → List Byte
  | [] => []
  | [b] => if b = 0xFF then [] else [b]
  | b :: b' :: rest =>
    if b ≠ 0xFF then b :: destuff (b' :: rest) else if b' = 0x00 then b :: destuff rest else []

/-- The bytes at the read cursor begin with these. -/
def Reader.holds (r : Reader) (bytes : List Byte) : Bool := bytes.isPrefixOf (r.inp.drop r.rp)

/-- A whole segment stands at the read cursor: its length field and this payload (spec R83). -/
def Reader.holdsSegment (r : Reader) (payload : List Byte) : Bool :=
  payload.length ≤ 65533 && r.holds (natBytes16 (payload.length + 2) ++ payload)

/-- The state after `read_segment` has read a segment with this payload (spec R183). -/
def State.pastSegment (s : State) (payload : List Byte) : State :=
  { s with reader := { s.reader with rp := s.reader.rp + (payload.length + 2) }
           walk := { s.walk with lpos := s.reader.rp } }

/-- `CANCEL` is 0 at the next `n` sampling points (spec R328). -/
def State.notCancelled (s : State) (n : Nat) : Bool := (s.port.cancel.take n).all (fun c => !c)

/-- The command ended with this error (spec R325). -/
def State.failedWith (t : State) (kind : ErrKind) : Prop := t.status.phase = .failed ∧ t.status.err = kind

/-- The command ended with this refusal (spec R323). -/
def State.refusedWith (t : State) (reason : Reason) : Prop :=
  t.status.phase = .refused ∧ t.status.rreason = some reason

/-- The code word of a symbol: its first occurrence in the table (spec R161, R164). -/
def HuffSlot.codeOf (slot : HuffSlot) (sym : Byte) : Option (List Bool) :=
  if slot.valid then
    match buildTable slot.counts with
    | none => none
    | some cs => ((cs.zip slot.values).find? fun e => e.2 == sym).map fun e => natToBits e.1.1 e.1.2
  else none

/-- `DCcode`: the code of the size, and the magnitude bits of the difference (spec R92, R93). -/
def dcBits (slot : HuffSlot) (diff : Int) : Option (List Bool) :=
  if size diff ≤ Config.dcSizeMax then
    (slot.codeOf (BitVec.ofNat 8 (size diff))).map fun code => code ++ natToBits (magbits diff (size diff)) (size diff)
  else none

/-- The codes of `n` ZRL symbols (spec R92). -/
def zrlBits (slot : HuffSlot) (n : Nat) : Option (List Bool) :=
  if n = 0 then some [] else (slot.codeOf 0xF0).map fun code => (List.replicate n code).flatten

/-- `ACcode₁ ‖ ACcode₂ ‖ …` for the coefficients left after a run of `r` zeros: ZRL before a coefficient for each full
run of 16, run and size, magnitude bits; EOB for a run at the end (spec R92, R255). -/
def acBits (slot : HuffSlot) : Nat → List Int → Option (List Bool)
  | r, [] => if r = 0 then some [] else slot.codeOf 0x00
  | r, v :: vs =>
    if v = 0 then acBits slot (r + 1) vs
    else if size v ≤ Config.acSizeMax then
      match zrlBits slot (r / 16), slot.codeOf (nibbles (BitVec.ofNat 4 (r % 16)) (BitVec.ofNat 4 (size v))),
          acBits slot 0 vs with
      | some zrls, some code, some rest => some (zrls ++ code ++ natToBits (magbits v (size v)) (size v) ++ rest)
      | _, _, _ => none
    else none

/-- The AC codes of some coefficients without the end of the block: their bits, and the run of zeros they leave, which was
`r` before them (spec R92, R255). -/
def acRunBits (slot : HuffSlot) : Nat → List Int → Option (List Bool × Nat)
  | r, [] => some ([], r)
  | r, v :: vs =>
    if v = 0 then acRunBits slot (r + 1) vs
    else if size v ≤ Config.acSizeMax then
      match zrlBits slot (r / 16), slot.codeOf (nibbles (BitVec.ofNat 4 (r % 16)) (BitVec.ofNat 4 (size v))),
          acRunBits slot 0 vs with
      | some zrls, some code, some (rest, r') =>
        some (zrls ++ code ++ natToBits (magbits v (size v)) (size v) ++ rest, r')
      | _, _, _ => none
    else none

/-- The data unit code of a block after the predictor `pred`; `none` when a table lacks a code it needs or a value has no
size (spec R92, R251). -/
def blockBits (dc ac : HuffSlot) (pred : Int) (cb : Vector Int 64) : Option (List Bool) :=
  match dcBits dc (cb[0] - pred), acBits ac 0 cb.toList.tail with
  | some d, some a => some (d ++ a)
  | _, _ => none

/-- The row `decode_ac` run over and over, at most `n` times: while `k ≤ 63` and it answers that the unit goes on (spec
R199). Its answers are dropped; where it stops, that state is the last one. -/
def acLoop (ta : Slot) : Nat → State → Host.Outcome State Fault Refusal
  | 0, s => .next (s.returning .none)
  | n + 1, s =>
    if 63 < s.work.k then .next (s.returning .none)
    else
      match exec (.decodeAc ta) s with
      | .next t =>
        match t.port.result with
        | .bool false => acLoop ta n { t with port := { t.port with result := s.port.result } }
        | .bool true => .next (t.returning .none)
        | _ => .next t
      | .fault f => .fault f
      | .refused r => .refused r

/-- The bits of data units in order, and the predictors after them (spec R91, R250). -/
def unitsBits (im : Image) : List DataUnit → Vector Int 4 → Option (List Bool × Vector Int 4)
  | [], pred => some ([], pred)
  | u :: us, pred =>
    let cb := im.plane.readBlock u.ci u.row u.col
    match blockBits (im.ht .dc u.td) (im.ht .ac u.ta) pred[u.ci] cb, unitsBits im us (pred.set u.ci cb[0]) with
    | some bits, some (rest, pred') => some (bits ++ rest, pred')
    | _, _ => none

/-- The bit string of `n` MCUs from number `mcu` on, cut where a restart is due (spec R91). -/
def scanPieces (im : Image) (sc : List ScanComp) (mcu : Nat) (pred : Vector Int 4) (acc : List Bool) :
    Nat → Option (List (List Bool))
  | 0 => some [acc]
  | n + 1 =>
    let due := restartDue im.ri mcu
    match unitsBits im (mcuUnits im.frame sc mcu) (if due then Vector.replicate 4 0 else pred) with
    | none => none
    | some (bits, pred') =>
      if due then (scanPieces im sc (mcu + 1) pred' bits n).map fun pieces => acc :: pieces
      else scanPieces im sc (mcu + 1) pred' (acc ++ bits) n

/-- Bits as bytes, the last one padded with 1-bits (spec R91, R143). The count bounds the bytes. -/
def packBits : Nat → List Bool → List Byte
  | 0, _ => []
  | n + 1, bits =>
    if bits = [] then []
    else BitVec.ofNat 8 (bitsToNat (bits.take 8 ++ List.replicate (8 - bits.length) true)) :: packBits n (bits.drop 8)

/-- A bit string as entropy-coded bytes: padded and stuffed (spec R91). -/
def entropyBytes (bits : List Bool) : List Byte :=
  (packBits bits.length bits).flatMap fun b => if b = 0xFF then [b, 0x00] else [b]

/-- The pieces of a scan with the restart markers between them (spec R91). -/
def joinPieces : BitVec 3 → List (List Bool) → List Byte
  | _, [] => []
  | _, [bits] => entropyBytes bits
  | n, bits :: rest => entropyBytes bits ++ [0xFF, 0xD0 + n.zeroExtend 8] ++ joinPieces (n + 1) rest

/-- The entropy-coded bytes of an image's first scan; `none` when a block cannot be coded (spec R91, R250). -/
def Image.scanBytes (im : Image) : Option (List Byte) :=
  (scanPieces im im.scan0.sc 0 (Vector.replicate 4 0) [] im.frame.mcuCount).map (joinPieces 0)

/-- The bytes of `emit_preserved` (spec R244). -/
def Image.preservedBytes (im : Image) : List Byte := im.seg.flatMap fun r => segmentBytes r.marker r.payload

/-- The bytes of `emit_dqt` (spec R245). -/
def Image.dqtBytes (im : Image) : List Byte :=
  (usedQuant im).flatMap fun t => segmentBytes 0xDB (dqtPayload t im.qt[t])

/-- The bytes of `emit_dht` (spec R246). -/
def Image.dhtBytes (im : Image) : List Byte :=
  ((usedHuff im .dc).flatMap fun t => segmentBytes 0xC4 (dhtPayload .dc t (im.ht .dc t))) ++
    ((usedHuff im .ac).flatMap fun t => segmentBytes 0xC4 (dhtPayload .ac t (im.ht .ac t)))

/-- The bytes of `emit_dri` (spec R248). -/
def Image.driBytes (im : Image) : List Byte := if im.ri = 0 then [] else segmentBytes 0xDD (be16Bytes im.ri)

/-- Everything in front of the entropy-coded data, in the order of spec R242. -/
def Image.headBytes (im : Image) : List Byte :=
  [0xFF, 0xD8] ++ im.preservedBytes ++ im.dqtBytes ++ im.dhtBytes ++ segmentBytes 0xC0 (sof0Payload im.frame) ++
    im.driBytes ++ segmentBytes 0xDA (sosPayload im.frame im.scan0)

/-- Every table the first scan uses is valid (spec R245, R246). -/
def Image.tablesReady (im : Image) : Bool :=
  (usedQuant im).all (fun t => im.qt[t].valid) && (usedHuff im .dc).all (fun t => (im.ht .dc t).valid) &&
    (usedHuff im .ac).all (fun t => (im.ht .ac t).valid)

/-- The values of the two cells of a pair of the host's target component (spec R292, R293). -/
def State.pairOf (s : State) (t : Slot) (idx : Nat) : Int × Int :=
  (s.image.plane.read (pairCells s.image.frame t s.agent.config.k idx).1,
   s.image.plane.read (pairCells s.image.frame t s.agent.config.k idx).2)

/-- The number of pairs of the host's target component (spec R293). -/
def State.pairsIn (s : State) (t : Slot) : Nat := pairCount s.image.frame t s.agent.config.k

/-- The host may run: `DECODED`, a legal configuration, and component `t` has the configured id (spec R290, R291). -/
def State.hostReady (s : State) (t : Slot) : Bool :=
  s.status.phase == .decoded && s.agent.config.legal && s.image.frame.findComp s.agent.config.component == some t

/-- The host refused to run: nothing but its own record and the returned value has changed (spec R290, R291). -/
def State.notRun (s : State) : State :=
  { s with agent := { s.agent with status := .refusedToRun }, port := { s.port with result := .none } }

/-- The pairs that carry bits, in traversal order: every pair, or under `skip_zero_pairs` the ones that are not `(0, 0)`
(spec R292, R293, R298). -/
def State.carriers (s : State) (t : Slot) : List Nat :=
  (List.range (s.pairsIn t)).filter fun idx => !(s.agent.config.skipZero && s.pairOf t idx == (0, 0))

/-- The bits the host reads from pairs (spec R299, R303). -/
def State.carriedBits (s : State) (t : Slot) (idxs : List Nat) : List Bool :=
  idxs.flatMap fun idx =>
    let b := extractPair s.agent.config.delta (s.pairOf t idx).1 (s.pairOf t idx).2
    [b.1, b.2]

/-- What embedding bits makes of pairs in traversal order: the pairs afterwards, the bits that found no pair, and whether a
pair was skipped by clamping. A `(0, 0)` pair is passed over under `skip_zero_pairs`, a pair that clamping would spoil is
passed over and its bits go to the next one (spec R297, R298, R302). -/
def embedRun (cfg : AgentConfig) : List (Int × Int) → List Bool → List (Int × Int) × List Bool × Bool
  | p :: ps, b1 :: b2 :: rest =>
    if cfg.skipZero && p == (0, 0) then
      let r := embedRun cfg ps (b1 :: b2 :: rest)
      (p :: r.1, r.2)
    else
      match embedPair cfg.delta p.1 p.2 b1 b2 with
      | none =>
        let r := embedRun cfg ps (b1 :: b2 :: rest)
        (p :: r.1, r.2.1, true)
      | some v =>
        let r := embedRun cfg ps rest
        (v :: r.1, r.2)
  | ps, bits => (ps, bits, false)

end Sys2Proof.Machine
end

