-- ==== Sys2Proof/Certificates/Slice0/Obligations.lean ====
section
/-! DEFINITION. The statements for the provers. Each is about the machine for every state and operand that meets its
hypotheses; a claim about a choice of the model names its log entry. -/

open Sys2Proof Sys2Proof.Machine

/-! ### Encoding -/

/-- Decoding an encoded well-formed instruction gives it back, with every operand (spec R80, R82, R93, R94, R99). -/
def Obligations.DecodeInvertsEncode : Prop :=
  ∀ (i : Instr) (c : Code), i.wellFormed = true → encode i = some c → decode c = .instr i

/-- Every code byte, DC symbol and AC symbol has exactly one meaning, which is well formed and encodes back to it; and a
word of each level, written out from the tables of the spec, decodes to its row. -/
def Obligations.EveryCodeByteHasOneMeaning : Prop :=
  (∀ m : Byte, (decodeMarkerCode m).wellFormed = true ∧ encode (decodeMarkerCode m) = some (markerCode m)) ∧
  (∀ sym : Byte, (decodeDcSymbol sym).wellFormed = true ∧ encode (decodeDcSymbol sym) = some (.dcSymbol sym)) ∧
  (∀ sym : Byte, (decodeAcSymbol sym).wellFormed = true ∧ encode (decodeAcSymbol sym) = some (.acSymbol sym)) ∧
  (∀ r : Request, (decodeCommand r).wellFormed = true) ∧
  decode (.marker [0xFF, 0xC0]) = .instr .sof0 ∧ decode (.marker [0xFF, 0xD3]) = .instr (.rst 3) ∧
  decode (.marker [0xFF, 0xED]) = .instr (.app 13) ∧ decode (.marker [0xFF, 0xBF]) = .instr (.illegalMarker 0xBF) ∧
  decode (.dcSymbol 0x0B) = .instr (.dcSize 11) ∧ decode (.dcSymbol 0x0C) = .instr (.illegalDc 0x0C) ∧
  decode (.acSymbol 0xE2) = .instr (.acRunSize 14 2) ∧ decode (.acSymbol 0xF0) = .instr .zrl ∧
  decode (.command { Request.bare 7 with c := 1, row := 2, col := 3, i := 4, v := -5 }) = .instr (.wrcoef 1 2 3 4 (-5)) ∧
  decode (.dataBytes [0xFF, 0x00]) = .instr .stuff ∧ decode (.padding [true, true, true]) = .instr (.pad 3)

/-! ### The step -/

/-- When no decode is under way below the command level and a command has been issued, the step runs what the oldest
command decodes to, whole, on the state without that command, and adds nothing. That a step runs one command whole is the
model's choice (log entry 1), and so is the register that says the level (log entry 8). -/
def Obligations.StepRunsTheIssuedCommand : Prop :=
  ∀ (s t : State) (r : Request) (rs : List Request) (i : Instr),
    (s.status.phase ≠ .busyDec ∨ s.walk.level = .command) → s.port.requests = r :: rs →
    decode (.command r) = .instr i → exec i { s with port := { s.port with requests := rs } } = .next t →
    step s = .next t

/-- At the marker level of a decode in progress the step runs what the bytes at `rp` decode to, on the state past the
marker, and then `complete`: a marker after SOI, the SOI marker at the start of the buffer, a fill byte. That a step runs
one marker, or one fill byte, of a decode in progress is the model's choice (log entry 8): a run of whole commands passes
through no such state. -/
def Obligations.StepRunsTheMarkerAtTheCursor : Prop :=
  (∀ (s t : State) (m : Byte) (i : Instr),
    s.status.phase = .busyDec → s.walk.level = .marker → s.image.fSoi = true → s.reader.holds [0xFF, m] = true →
    m ≠ 0xFF → decode (.marker [0xFF, m]) = .instr i →
    exec i { s with reader := { s.reader with rp := s.reader.rp + 2, rcnt := 0 }
                    walk := { s.walk with mpos := s.reader.rp - s.walk.fills, fills := 0 } } = .next t →
    step s = .next (complete .marker i t)) ∧
  (∀ s t : State,
    s.status.phase = .busyDec → s.walk.level = .marker → s.image.fSoi = true →
    s.reader.holds [0xFF, 0xFF] = true → exec .fill s = .next t → step s = .next (complete .marker .fill t)) ∧
  (∀ (s t : State) (rest : List Byte),
    s.status.phase = .busyDec → s.walk.level = .marker → s.image.fSoi = false → s.reader.inp = 0xFF :: 0xD8 :: rest →
    exec .soi { s with reader := { s.reader with rp := 2, rcnt := 0 }
                       walk := { s.walk with mpos := 0, fills := 0 } } = .next t →
    step s = .next (complete .marker .soi t))

/-- At the symbol levels of a decode in progress the step runs the escape that stands at `rp`, or what the next Huffman
symbol decodes to; after the last MCU it runs the padding left of the byte. That a step runs one symbol, one STUFF or one
PAD of a decode in progress is the model's choice (log entry 8): a run of whole commands passes through no such state. -/
def Obligations.StepRunsTheEntropySymbol : Prop :=
  (∀ (s s1 t : State) (sym : Byte) (i : Instr),
    s.status.phase = .busyDec → s.walk.level = .dc → s.reader.atStuff = false →
    (huffDecode .dc s.walk.du.td).run s = .ok sym s1 → decode (.dcSymbol sym) = .instr i → exec i s1 = .next t →
    step s = .next (complete .dc i t)) ∧
  (∀ (s s1 t : State) (sym : Byte) (i : Instr),
    s.status.phase = .busyDec → s.walk.level = .ac → s.reader.atStuff = false →
    (huffDecode .ac s.walk.du.ta).run s = .ok sym s1 → decode (.acSymbol sym) = .instr i → exec i s1 = .next t →
    step s = .next (complete .ac i t)) ∧
  (∀ s t : State,
    s.status.phase = .busyDec → (s.walk.level = .dc ∨ s.walk.level = .ac) → s.reader.atStuff = true →
    exec .stuff s = .next t → step s = .next t) ∧
  (∀ s t : State,
    s.status.phase = .busyDec → s.walk.level = .mcu → s.image.frame.mcuCount ≤ s.work.mcu → 1 ≤ s.reader.rcnt →
    s.reader.rcnt ≤ 7 → exec (.pad s.reader.rcnt) s = .next t → step s = .next t)

/-- Every step of the machine answers a next state. R9 and R320 have a command end ok, in an error or in a refusal; that a
refusal is a next state too is the model's reading (log entry 7; R323 advises to treat a refused run as no behaviour), and
so is the idle step (log entry 18). -/
def Obligations.StepAlwaysAnswersNext : Prop := ∀ s : State, ∃ t, step s = .next t

/-- Where a rule restricts the state or the operands of a procedure and gives it no effect outside the restriction, the
procedure is refused there, with a reason nothing is known of (spec R9: a situation without meaning is refused; which reason
is open, log entry 10). Where the rule leaves only a result unstated, the procedure answers all the same and
changes nothing, the result being a value nothing is known of (log entry 22). -/
def Obligations.OperandsOutsideTheDomainAreRefusedOrFree : Prop :=
  (∀ (s : State) (p : Nat), s.reader.inlen < p →
    ∃ t reason, exec (.brAttach p) s = .next t ∧ t.refusedWith reason ∧ t.reader = s.reader) ∧
  (∀ (s : State) (i : Instr), s.writer.wcnt ≠ 0 →
    (∃ bytes, i = .putRaw bytes) ∨ i = .emitSoi ∨ i = .emitSof0 ∨ (i = .emitPreserved ∧ s.image.seg ≠ []) ∨
      (i = .emitDri ∧ s.image.ri ≠ 0) ∨ (i = .emitSos ∧ s.image.scans ≠ []) ∨
      (i = .emitDqt ∧ usedQuant s.image ≠ []) ∨
      (i = .emitDht ∧ (usedHuff s.image .dc ≠ [] ∨ usedHuff s.image .ac ≠ [])) →
    ∃ t reason, exec i s = .next t ∧ t.refusedWith reason ∧ t.image = s.image) ∧
  (∀ s : State, s.reader.holds [0xFF, 0x00] = false →
    ∃ t reason, exec .stuff s = .next t ∧ t.refusedWith reason ∧ t.reader = s.reader) ∧
  (∀ (s : State) (n : Nat),
    (s.status.phase = .busyEnc ∧ ¬ (1 ≤ n ∧ n ≤ 7 ∧ s.writer.wcnt + n = 8)) ∨
      (s.status.phase ≠ .busyEnc ∧ ¬ (1 ≤ n ∧ n ≤ 7 ∧ s.reader.rcnt = n)) →
    ∃ t reason, exec (.pad n) s = .next t ∧ t.refusedWith reason ∧ t.reader = s.reader) ∧
  (∀ (s : State) (i : Instr), i ∈ [Instr.emitSos, .emitDqt, .emitDht, .encodeScan, .decodeScan] → s.image.scans = [] →
    ∃ t reason, exec i s = .next t ∧ t.refusedWith reason ∧ t.image = s.image) ∧
  (∀ (s : State) (counts : Vector Byte 16) (values : List Byte), values.length ≠ totalOf counts →
    (buildTable counts ≠ none → ∃ cs, exec (.buildTable counts values) s = .next (s.returning (.codes cs))) ∧
    (buildTable counts = none → ∃ t, exec (.buildTable counts values) s = .next t ∧
      t.refusedWith .huffmanOversubscribed)) ∧
  (∀ (s : State) (bits n : Nat), ¬ (n ≤ 15 ∧ bits < 2 ^ n) →
    ∃ v, exec (.extend bits n) s = .next (s.returning (.int v))) ∧
  (∀ (s : State) (v : Int) (n : Nat), n ≠ size v → ∃ m, exec (.magbits v n) s = .next (s.returning (.nat m))) ∧
  (∀ (s : State) (a : Int), ∃ v, exec (.rdiv a 0) s = .next (s.returning (.int v))) ∧
  (∀ (s : State) (d : Int), ∃ v, exec (.qround d 0) s = .next (s.returning (.int v))) ∧
  (∀ (s : State) (payload : List Byte), 2 ^ 32 ≤ payload.length →
    ∃ b0 b1 b2 b3, exec (.frame payload) s = .next (s.returning (.bytes (b0 :: b1 :: b2 :: b3 :: payload))))

/-! ### Reset, phases, failures -/

/-- `RESET` is legal in every phase and leaves every register of the block at its reset value, which is also the state
after power-on. That the host's side stays as it is is the model's choice (log entry 18), and so are the contents of an
invalid table slot and the model's own fields at reset (log entry 2). -/
def Obligations.ResetRestoresThePowerOnState : Prop :=
  (∀ s : State, exec .reset s = .next
    { State.reset with port := { s.port with result := .none }, agent := s.agent }) ∧
  State.reset.status = { phase := .idle, err := .none, errpos := 0, rreason := none } ∧
  State.reset.reader = { inp := [], rp := 0, racc := 0, rcnt := 0 } ∧
  State.reset.writer = { out := [], wacc := 0, wcnt := 0 } ∧
  State.reset.work =
    { cb := Vector.replicate 64 0, k := 1, pred := Vector.replicate 4 0, mcu := 0, rstn := 0 } ∧
  State.reset.image.fSoi = false ∧ State.reset.image.fEoi = false ∧ State.reset.image.ri = 0 ∧
  State.reset.image.frame = { valid := false, p := 0, y := 0, x := 0, comps := [] } ∧
  State.reset.image.scans = [] ∧ (∀ i : Slot, State.reset.image.qt[i].valid = false) ∧
  (∀ (tc : TableClass) (th : Slot), (State.reset.image.ht tc th).valid = false) ∧
  State.reset.image.plane = [] ∧ State.reset.image.seg = []

/-- In `FAILED` and `REFUSED` every command except `RESET` is refused with `BadPhase`, which leaves `PHASE = REFUSED`, and
`ERR` and `ERRPOS` stay readable until `RESET` clears them; no step but that of a `RESET` leaves the two phases (spec
R327). -/
def Obligations.FailureIsStickyUntilReset : Prop :=
  (∀ (s : State) (r : Request), (s.status.phase = .failed ∨ s.status.phase = .refused) →
    2 ≤ r.code.toNat → r.code.toNat ≤ 7 →
    ∃ t, exec (decodeCommand r) s = .next t ∧ t.refusedWith .badPhase ∧
      t.status.err = s.status.err ∧ t.status.errpos = s.status.errpos) ∧
  (∀ s : State, ∃ t, exec .reset s = .next t ∧ t.status.phase = .idle ∧ t.status.err = .none ∧
    t.status.errpos = 0 ∧ t.status.rreason = none) ∧
  (∀ s t : State, (s.status.phase = .failed ∨ s.status.phase = .refused) → step s = .next t →
    t.status.phase = .failed ∨ t.status.phase = .refused ∨
      (t.status.phase = .idle ∧ ∃ r rs, s.port.requests = r :: rs ∧ r.code = 1))

/-- A command outside the phases it is legal in is refused with `BadPhase`; an ENCODE in `DECODED` of a stream whose number
of scans is not 1 is refused with `ScanCount`; a refused ENCODE leaves `OUT` empty; and a reserved code is refused with
`BadOperand` in every phase (spec R99, R241, R259, R323). -/
def Obligations.CommandsAreRefusedOutOfPhase : Prop :=
  (∀ s : State, s.status.phase ≠ .decoded →
    (∃ t, exec .encode s = .next t ∧ t.refusedWith .badPhase ∧ t.writer.out = []) ∧
    (∀ c row col, ∃ t, exec (.dequant c row col) s = .next t ∧ t.refusedWith .badPhase) ∧
    (∀ c row col d, ∃ t, exec (.quant c row col d) s = .next t ∧ t.refusedWith .badPhase) ∧
    (∀ c row col i, ∃ t, exec (.rdcoef c row col i) s = .next t ∧ t.refusedWith .badPhase) ∧
    (∀ c row col i v, ∃ t, exec (.wrcoef c row col i v) s = .next t ∧ t.refusedWith .badPhase)) ∧
  (∀ s : State, s.status.phase = .decoded → s.image.nscan ≠ 1 →
    ∃ t, exec .encode s = .next t ∧ t.refusedWith .scanCount ∧ t.writer.out = []) ∧
  (∀ (s : State) (buf : List Byte), s.status.phase ≠ .decoded → s.status.phase ≠ .idle →
    ∃ t, exec (.decode buf) s = .next t ∧ t.refusedWith .badPhase) ∧
  (∀ (s : State) (code : Byte), ∃ t, exec (.reservedCommand code) s = .next t ∧ t.refusedWith .badOperand)

/-- A decode starts from the reset values: what an earlier command left in the rows that `DECODE` resets has no effect on
it (spec R41, R180, R352). -/
def Obligations.DecodeForgetsTheEarlierImage : Prop :=
  ∀ (s : State) (buf : List Byte), (s.status.phase = .idle ∨ s.status.phase = .decoded) →
    exec (.decode buf) s =
      exec (.decode buf) { s with reader := Reader.reset, work := Work.reset, image := Image.reset, walk := Sequencer.reset }

/-! ### Coefficient cells and the quantisation unit -/

/-- RDCOEF answers the cell and changes nothing; WRCOEF writes the cell and no other; an address outside the stored grid
is refused with `BadOperand` (spec R99). Two cells of a frame have one address only if they are the same cell (spec R60; the
flat address is the model's, log entry 9). -/
def Obligations.CoefficientCommandsReachOneCell : Prop :=
  (∀ (f : Frame) (c row col i c' row' col' i' : Nat), f.hasCell c row col i = true → f.hasCell c' row' col' i' = true →
    cellAddr c row col i = cellAddr c' row' col' i' → c = c' ∧ row = row' ∧ col = col' ∧ i = i') ∧
  (∀ (s : State) (c row col i : Nat) (v : Int), s.status.phase = .decoded → s.image.plane.wf = true →
    (c < s.image.frame.nf ∧ row < s.image.frame.bh c ∧ col < s.image.frame.bw c ∧ i ≤ 63 →
      exec (.rdcoef c row col i) s = .next (s.returning (.int (s.image.plane.read (cellAddr c row col i)))) ∧
      ∃ m : Memory, exec (.wrcoef c row col i v) s =
          .next ({ s with image := { s.image with plane := m } }.returning .none) ∧
        m.read (cellAddr c row col i) = v ∧
        ∀ a, a ≠ cellAddr c row col i → m.read a = s.image.plane.read a) ∧
    (¬ (c < s.image.frame.nf ∧ row < s.image.frame.bh c ∧ col < s.image.frame.bw c ∧ i ≤ 63) →
      (∃ t, exec (.rdcoef c row col i) s = .next t ∧ t.refusedWith .badOperand) ∧
      (∃ t, exec (.wrcoef c row col i v) s = .next t ∧ t.refusedWith .badOperand)))

/-- DEQUANT answers the 64 exact products and changes no state; outside `DECODED`, for a block outside the grid and for a
component without a table it is refused (spec R282). -/
def Obligations.DequantAnswersTheProducts : Prop :=
  (∀ (s : State) (c row col : Nat), s.status.phase = .decoded →
    c < s.image.frame.nf → row < s.image.frame.bh c → col < s.image.frame.bw c →
    (s.image.qt[(s.image.frame.comp c).tq].valid = true →
      exec (.dequant c row col) s = .next (s.returning (.coefs (Vector.ofFn fun i : Fin 64 =>
        s.image.plane.read (cellAddr c row col i.val) * (s.image.qt[(s.image.frame.comp c).tq].q[i].toNat : Int))))) ∧
    (s.image.qt[(s.image.frame.comp c).tq].valid = false →
      ∃ t, exec (.dequant c row col) s = .next t ∧ t.refusedWith .missingTable)) ∧
  (∀ (s : State) (c row col : Nat), s.status.phase = .decoded →
    ¬ (c < s.image.frame.nf ∧ row < s.image.frame.bh c ∧ col < s.image.frame.bw c) →
    ∃ t, exec (.dequant c row col) s = .next t ∧ t.refusedWith .badOperand) ∧
  (∀ (s : State) (c row col : Nat), s.status.phase ≠ .decoded →
    ∃ t, exec (.dequant c row col) s = .next t ∧ t.refusedWith .badPhase)

/-- QUANT stores the 64 nearest quotients, ties away from zero, and touches no other cell; a zero entry is refused before
any cell is written; and `rdiv` answers that quotient (spec R37, R283, R355). That `CB` stays as it is, where R24 has quant
write it, is the model's reading, log entry 20. -/
def Obligations.QuantStoresTheNearestQuotients : Prop :=
  (∀ (s : State) (c row col : Nat) (d : Vector Int 64), s.status.phase = .decoded → s.image.plane.wf = true →
    c < s.image.frame.nf → row < s.image.frame.bh c → col < s.image.frame.bw c →
    let slot := s.image.qt[(s.image.frame.comp c).tq]
    (slot.valid = true → (∀ i : Fin 64, slot.q[i] ≠ 0) →
      ∃ m : Memory, exec (.quant c row col d) s =
          .next ({ s with image := { s.image with plane := m } }.returning .none) ∧
        (∀ i : Fin 64, m.read (cellAddr c row col i.val) = rdiv d[i] slot.q[i].toNat) ∧
        (∀ a, (∀ i : Fin 64, a ≠ cellAddr c row col i.val) → m.read a = s.image.plane.read a)) ∧
    (slot.valid = true → (∃ i : Fin 64, slot.q[i] = 0) →
      ∃ t, exec (.quant c row col d) s = .next t ∧ t.refusedWith .divideByZero ∧ t.image.plane = s.image.plane) ∧
    (slot.valid = false → ∃ t, exec (.quant c row col d) s = .next t ∧ t.refusedWith .missingTable)) ∧
  (∀ (s : State) (c row col : Nat) (d : Vector Int 64), s.status.phase = .decoded →
    ¬ (c < s.image.frame.nf ∧ row < s.image.frame.bh c ∧ col < s.image.frame.bw c) →
    ∃ t, exec (.quant c row col d) s = .next t ∧ t.refusedWith .badOperand) ∧
  (∀ (s : State) (c row col : Nat) (d : Vector Int 64), s.status.phase ≠ .decoded →
    ∃ t, exec (.quant c row col d) s = .next t ∧ t.refusedWith .badPhase) ∧
  (∀ (s : State) (a : Int) (q : Nat), 0 < q →
    exec (.rdiv a q) s = .next (s.returning (.int (rdiv a q))) ∧
    2 * (a - rdiv a q * (q : Int)).natAbs ≤ q ∧
    (2 * (a - rdiv a q * (q : Int)).natAbs = q → a.natAbs ≤ (rdiv a q * (q : Int)).natAbs))

/-- QUANT after DEQUANT leaves the block unchanged; and DEQUANT after QUANT differs from the operand by at most half an
entry (spec R284). -/
def Obligations.QuantInvertsDequant : Prop :=
  (∀ (s s1 t : State) (c row col : Nat) (d : Vector Int 64), s.status.phase = .decoded → s.image.plane.wf = true →
    c < s.image.frame.nf → row < s.image.frame.bh c → col < s.image.frame.bw c →
    s.image.qt[(s.image.frame.comp c).tq].valid = true →
    (∀ i : Fin 64, s.image.qt[(s.image.frame.comp c).tq].q[i] ≠ 0) →
    exec (.dequant c row col) s = .next s1 → s1.port.result = .coefs d → exec (.quant c row col d) s1 = .next t →
    t.status.phase = .decoded ∧ ∀ a, t.image.plane.read a = s.image.plane.read a) ∧
  (∀ (v : Int) (q : Nat), 0 < q → rdiv (v * (q : Int)) q = v) ∧
  (∀ (s s1 t : State) (c row col : Nat) (d e : Vector Int 64), s.status.phase = .decoded → s.image.plane.wf = true →
    c < s.image.frame.nf → row < s.image.frame.bh c → col < s.image.frame.bw c →
    s.image.qt[(s.image.frame.comp c).tq].valid = true →
    (∀ i : Fin 64, s.image.qt[(s.image.frame.comp c).tq].q[i] ≠ 0) →
    exec (.quant c row col d) s = .next s1 → exec (.dequant c row col) s1 = .next t → t.port.result = .coefs e →
    ∀ i : Fin 64, 2 * (e[i] - d[i]).natAbs ≤ s.image.qt[(s.image.frame.comp c).tq].q[i].toNat)

/-! ### Markers and segments -/

/-- The stream opens with SOI at offset 0 exactly: `check_soi` accepts it and moves past it; any other two bytes are
`InvalidMarker`, fewer are `UnexpectedEndOfStream` (spec R181). -/
def Obligations.SoiOpensTheStream : Prop :=
  (∀ (s : State) (rest : List Byte), s.reader.inp = 0xFF :: 0xD8 :: rest →
    exec .checkSoi s = .next ({ s with reader := { s.reader with rp := 2 }
                                       image := { s.image with fSoi := true } }.returning .none)) ∧
  (∀ s : State, s.reader.inlen < 2 → ∃ t, exec .checkSoi s = .next t ∧ t.failedWith .unexpectedEndOfStream) ∧
  (∀ s : State, 2 ≤ s.reader.inlen → (∀ rest, s.reader.inp ≠ 0xFF :: 0xD8 :: rest) →
    ∃ t, exec .checkSoi s = .next t ∧ t.failedWith .invalidMarker)

/-- EOI sets `F_EOI` and nothing else once a scan was decoded; before any scan it is `InvalidMarker` (spec R194). -/
def Obligations.EoiNeedsAScan : Prop :=
  ∀ s : State,
    (s.image.scans ≠ [] → exec .eoi s = .next ({ s with image := { s.image with fEoi := true } }.returning .none)) ∧
    (s.image.scans = [] → ∃ t, exec .eoi s = .next t ∧ t.failedWith .invalidMarker)

/-- SOF0 with a legal payload records exactly the frame it carries and allocates planes of zero cells (spec R87, R189,
R196). -/
def Obligations.Sof0RecordsTheFrame : Prop :=
  ∀ (s : State) (f : Frame), s.image.frame.valid = false → f.valid = true → f.ok = true →
    s.reader.holdsSegment (sof0Payload f) = true →
    exec .sof0 s = .next ({ s.pastSegment (sof0Payload f) with
      image := { s.image with frame := f, plane := [] } }.returning .none)

/-- SOF1 to SOF15 and JPG are `UnsupportedMode`, DAC is `UnsupportedArithmeticCoding`, the codes below `0xC0` and the byte
`0x00` after `0xFF` are `InvalidMarker`; none of them reads the segment (spec R136, R190, R191, R195). That the reader
registers can be looked at after the failure, and stay, is the model's choice (log entry 5). -/
def Obligations.RejectedMarkersAreReported : Prop :=
  (∀ (s : State) (i : Instr), i ∈ [Instr.sof1, .sof2, .sof3, .sof5, .sof6, .sof7, .sof9, .sof10, .sof11, .sof13, .sof14,
      .sof15, .jpg] →
    ∃ t, exec i s = .next t ∧ t.failedWith .unsupportedMode ∧ t.reader = s.reader) ∧
  (∀ s : State, ∃ t, exec .dac s = .next t ∧ t.failedWith .unsupportedArithmeticCoding ∧ t.reader = s.reader) ∧
  (∀ (s : State) (m : Byte), ∃ t, exec (.illegalMarker m) s = .next t ∧ t.failedWith .invalidMarker ∧
    t.reader = s.reader) ∧
  (∀ s : State, ∃ t, exec .notACode s = .next t ∧ t.failedWith .invalidMarker ∧ t.reader = s.reader)

/-- `read_segment` answers the payload and moves past it; `Ls < 2` is `InvalidSegmentLength`, a buffer that ends first is
`UnexpectedEndOfStream` (spec R183). -/
def Obligations.ReadSegmentAnswersThePayload : Prop :=
  (∀ (s : State) (payload : List Byte), s.reader.holdsSegment payload = true →
    exec .readSegment s = .next ((s.pastSegment payload).returning (.bytes payload))) ∧
  (∀ s : State, s.reader.inlen < s.reader.rp + 2 →
    ∃ t, exec .readSegment s = .next t ∧ t.failedWith .unexpectedEndOfStream) ∧
  (∀ (s : State) (b0 b1 : Byte), s.reader.holds [b0, b1] = true → (be16 b0 b1).toNat < 2 →
    ∃ t, exec .readSegment s = .next t ∧ t.failedWith .invalidSegmentLength) ∧
  (∀ (s : State) (b0 b1 : Byte), s.reader.holds [b0, b1] = true → 2 ≤ (be16 b0 b1).toNat →
    s.reader.inlen < s.reader.rp + (be16 b0 b1).toNat →
    ∃ t, exec .readSegment s = .next t ∧ t.failedWith .unexpectedEndOfStream)

/-- APPn, COM, DNL, DHP, EXP and JPG0 to JPG13 append their code byte and payload to `SEG` and change nothing else; where
`read_segment` fails they fail alike (spec R184 to R186). -/
def Obligations.CapturedSegmentsAreKept : Prop :=
  ∀ (s : State) (n4 : BitVec 4) (n3 : BitVec 3) (n2 : BitVec 2) (n1 : BitVec 1) (i : Instr) (m : Byte),
    (i, m) ∈ [(Instr.app n4, (0xE0 + n4.zeroExtend 8 : Byte)), (.com, 0xFE), (.dnl, 0xDC), (.dhp, 0xDE), (.exp, 0xDF),
      (.jpgLow n3, 0xF0 + n3.zeroExtend 8), (.jpgMid n2, 0xF8 + n2.zeroExtend 8), (.jpgHigh n1, 0xFC + n1.zeroExtend 8)] →
    (∀ payload : List Byte, s.reader.holdsSegment payload = true →
      exec i s = .next (({ s.pastSegment payload with
        image := { s.image with seg := s.image.seg ++ [({ marker := m, payload := payload } : SegRecord)] } } :
          State).returning .none)) ∧
    (∀ (t : State) (kind : ErrKind), exec .readSegment s = .next t → t.failedWith kind →
      ∃ u, exec i s = .next u ∧ u.failedWith kind)

/-- A DQT segment with any number of tables stores each in its slot, a later one of the same id over an earlier one (spec
R85, R187). -/
def Obligations.DqtStoresItsTables : Prop :=
  ∀ (s : State) (tables : List (Slot × QuantSlot)), tables ≠ [] →
    (∀ e ∈ tables, e.2.valid = true ∧ e.2.ok = true) →
    s.reader.holdsSegment (tables.flatMap fun (e : Slot × QuantSlot) => dqtPayload e.1 e.2) = true →
    exec .dqt s = .next ({ s.pastSegment (tables.flatMap fun (e : Slot × QuantSlot) => dqtPayload e.1 e.2) with
      image := tables.foldl (fun (im : Image) (e : Slot × QuantSlot) => im.setQt e.1 e.2) s.image }.returning .none)

/-- A DHT segment with any number of tables stores each in its slot of its class, a later one over an earlier one (spec
R86, R188). -/
def Obligations.DhtStoresItsTables : Prop :=
  ∀ (s : State) (tables : List (TableClass × Slot × HuffSlot)), tables ≠ [] →
    (∀ e ∈ tables, e.2.2.valid = true ∧ e.2.2.ok = true) →
    s.reader.holdsSegment (tables.flatMap fun (e : TableClass × Slot × HuffSlot) => dhtPayload e.1 e.2.1 e.2.2) = true →
    exec .dht s = .next ({ s.pastSegment (tables.flatMap fun (e : TableClass × Slot × HuffSlot) => dhtPayload e.1 e.2.1 e.2.2) with
      image := tables.foldl (fun (im : Image) (e : TableClass × Slot × HuffSlot) => im.setHt e.1 e.2.1 e.2.2) s.image }.returning .none)

/-- The checks on a segment's contents, in the order of the pseudocode: which defect of DQT, DHT, SOF0 and SOS ends in
which error or refusal. A DQT or DHT defect is that of the first bad table, after any number of good ones; a SOF0 or SOS
component's that of the first bad component, after any number of good ones (spec R162, R187 to R189, R193, R322, R324). -/
def Obligations.SegmentDefectsAreReported : Prop :=
  (∀ s : State, s.reader.holdsSegment [] = true →
    (∃ t, exec .dqt s = .next t ∧ t.failedWith .invalidSegmentLength) ∧
    (∃ t, exec .dht s = .next t ∧ t.failedWith .invalidSegmentLength)) ∧
  (∀ (s : State) (good : List (Slot × QuantSlot)) (b : Byte) (rest : List Byte),
    (∀ e ∈ good, e.2.valid = true ∧ e.2.ok = true) →
    s.reader.holdsSegment ((good.flatMap fun (e : Slot × QuantSlot) => dqtPayload e.1 e.2) ++ b :: rest) = true →
    (1 < (hiNibble b).toNat → ∃ t, exec .dqt s = .next t ∧ t.failedWith .unsupportedPrecision) ∧
    ((hiNibble b).toNat ≤ 1 → 4 ≤ (loNibble b).toNat →
      ∃ t, exec .dqt s = .next t ∧ t.refusedWith .tableIdOutOfRange) ∧
    ((hiNibble b).toNat ≤ 1 → (loNibble b).toNat < 4 → rest.length < 64 * ((hiNibble b).toNat + 1) →
      ∃ t, exec .dqt s = .next t ∧ t.failedWith .invalidSegmentLength)) ∧
  (∀ (s : State) (good : List (TableClass × Slot × HuffSlot)) (b : Byte) (rest : List Byte),
    (∀ e ∈ good, e.2.2.valid = true ∧ e.2.2.ok = true) →
    s.reader.holdsSegment
      ((good.flatMap fun (e : TableClass × Slot × HuffSlot) => dhtPayload e.1 e.2.1 e.2.2) ++ b :: rest) = true →
    (1 < (hiNibble b).toNat → ∃ t, exec .dht s = .next t ∧ t.refusedWith .tableClass) ∧
    ((hiNibble b).toNat ≤ 1 → 4 ≤ (loNibble b).toNat →
      ∃ t, exec .dht s = .next t ∧ t.refusedWith .tableIdOutOfRange) ∧
    ((hiNibble b).toNat ≤ 1 → (loNibble b).toNat < 4 →
      (rest.length < 16 → ∃ t, exec .dht s = .next t ∧ t.failedWith .invalidSegmentLength) ∧
      (∀ (counts : Vector Byte 16) (values : List Byte), rest = counts.toList ++ values →
        (values.length < totalOf counts → ∃ t, exec .dht s = .next t ∧ t.failedWith .invalidSegmentLength) ∧
        (totalOf counts ≤ values.length → buildTable counts = none →
          ∃ t, exec .dht s = .next t ∧ t.refusedWith .huffmanOversubscribed)))) ∧
  (∀ (s : State) (payload : List Byte), s.reader.holdsSegment payload = true →
    (s.image.frame.valid = true → ∃ t, exec .sof0 s = .next t ∧ t.failedWith .invalidMarker) ∧
    (s.image.frame.valid = false → payload.length < 6 →
      ∃ t, exec .sof0 s = .next t ∧ t.failedWith .invalidSegmentLength) ∧
    (s.image.frame.valid = false → ∀ (p nf : Byte) (y x : Half) (comps : List Byte),
      payload = [p] ++ be16Bytes y ++ be16Bytes x ++ [nf] ++ comps →
      (comps.length ≠ 3 * nf.toNat → ∃ t, exec .sof0 s = .next t ∧ t.failedWith .invalidSegmentLength) ∧
      (comps.length = 3 * nf.toNat → p ≠ 8 → ∃ t, exec .sof0 s = .next t ∧ t.failedWith .unsupportedPrecision) ∧
      (comps.length = 3 * nf.toNat → p = 8 → nf.toNat < 1 ∨ 4 < nf.toNat ∨ x = 0 ∨ y = 0 →
        ∃ t, exec .sof0 s = .next t ∧ t.refusedWith .badFrameParams) ∧
      (comps.length = 3 * nf.toNat → p = 8 → 1 ≤ nf.toNat → nf.toNat ≤ 4 → x ≠ 0 → y ≠ 0 →
        ∀ (good : List Comp) (c hv tq : Byte) (rest : List Byte),
        comps = (good.flatMap fun d => [d.c, nibbles d.h d.v, slotByte d.tq]) ++ c :: hv :: tq :: rest →
        (∀ d ∈ good, d.ok = true) → (good.map Comp.c).Nodup →
        let badFactors := (hiNibble hv).toNat < 1 ∨ 4 < (hiNibble hv).toNat ∨ (loNibble hv).toNat < 1 ∨
          4 < (loNibble hv).toNat
        (badFactors → ∃ t, exec .sof0 s = .next t ∧ t.refusedWith .badFrameParams) ∧
        (¬ badFactors → 4 ≤ tq.toNat → ∃ t, exec .sof0 s = .next t ∧ t.refusedWith .tableIdOutOfRange) ∧
        (¬ badFactors → tq.toNat < 4 → c ∈ good.map Comp.c →
          ∃ t, exec .sof0 s = .next t ∧ t.refusedWith .badFrameParams)))) ∧
  (∀ (s : State) (payload : List Byte), s.reader.holdsSegment payload = true →
    (s.image.frame.valid = false → ∃ t, exec .sos s = .next t ∧ t.failedWith .invalidMarker) ∧
    (s.image.frame.valid = true → payload = [] →
      ∃ t, exec .sos s = .next t ∧ t.failedWith .invalidSegmentLength) ∧
    (s.image.frame.valid = true → s.image.frame.ok = true → ∀ (ns : Byte) (body : List Byte), payload = ns :: body →
      (body.length ≠ 3 + 2 * ns.toNat → ∃ t, exec .sos s = .next t ∧ t.failedWith .invalidSegmentLength) ∧
      (body.length = 3 + 2 * ns.toNat → ns.toNat < 1 ∨ 4 < ns.toNat →
        ∃ t, exec .sos s = .next t ∧ t.refusedWith .badScanParams) ∧
      (body.length = 3 + 2 * ns.toNat → 1 ≤ ns.toNat → ns.toNat ≤ 4 → ∀ good : List ScanComp,
        (∀ d ∈ good, d.ci.val < s.image.frame.nf) → (good.map ScanComp.ci).Nodup →
        let bytes := good.flatMap fun d => [(s.image.frame.comp d.ci).c, nibbles (slotNibble d.td) (slotNibble d.ta)]
        (∀ (cs tables : Byte) (rest : List Byte), good.length < ns.toNat → body = bytes ++ cs :: tables :: rest →
          let badTables := 4 ≤ (hiNibble tables).toNat ∨ 4 ≤ (loNibble tables).toNat
          (cs ∉ s.image.frame.comps.map Comp.c → ∃ t, exec .sos s = .next t ∧ t.refusedWith .badScanParams) ∧
          (cs ∈ s.image.frame.comps.map Comp.c → badTables →
            ∃ t, exec .sos s = .next t ∧ t.refusedWith .tableIdOutOfRange) ∧
          (¬ badTables → cs ∈ good.map (fun d => (s.image.frame.comp d.ci).c) →
            ∃ t, exec .sos s = .next t ∧ t.refusedWith .badScanParams)) ∧
        (∀ ss se a : Byte, good.length = ns.toNat → body = bytes ++ [ss, se, a] → ¬ (ss = 0 ∧ se = 63 ∧ a = 0) →
          ∃ t, exec .sos s = .next t ∧ t.refusedWith .badScanParams))))

/-- DRI records the interval, which may be zero, and changes nothing else; a payload of another size is
`InvalidSegmentLength` (spec R192). -/
def Obligations.DriRecordsTheInterval : Prop :=
  (∀ (s : State) (ri : Half), s.reader.holdsSegment (be16Bytes ri) = true →
    exec .dri s = .next ({ s.pastSegment (be16Bytes ri) with image := { s.image with ri := ri } }.returning .none)) ∧
  (∀ (s : State) (payload : List Byte), s.reader.holdsSegment payload = true → payload.length ≠ 2 →
    ∃ t, exec .dri s = .next t ∧ t.failedWith .invalidSegmentLength)

/-- The rows SOI and RSTn: SOI is accepted as the first two bytes and `InvalidMarker` after that; at a restart point the
expected RSTn moves `rstn` on and clears the predictors and another one is `MissingRestartMarker`, in the segment walk it
is `InvalidMarker`. `restart` consumes the expected marker with any number of fill bytes in front and aligns the reader;
everything else is `MissingRestartMarker` (spec R181, R195, R203). That a row knows its place from the level of the walk
and from `rp` is the model's choice, log entry 8. -/
def Obligations.RestartsAndSoiKeepTheirPlace : Prop :=
  (∀ s : State, s.image.fSoi = false → s.reader.rp = 2 →
    exec .soi s = .next ({ s with image := { s.image with fSoi := true } }.returning .none)) ∧
  (∀ s : State, s.image.fSoi = true → ∃ t, exec .soi s = .next t ∧ t.failedWith .invalidMarker) ∧
  (∀ (s : State) (n : BitVec 3),
    (s.walk.level = .mcu → n = s.work.rstn →
      exec (.rst n) s = .next ({ s with
        work := { s.work with rstn := n + 1, pred := Vector.replicate 4 0 } }.returning .none)) ∧
    (s.walk.level = .mcu → n ≠ s.work.rstn →
      ∃ t, exec (.rst n) s = .next t ∧ t.failedWith .missingRestartMarker) ∧
    (s.walk.level ≠ .mcu → ∃ t, exec (.rst n) s = .next t ∧ t.failedWith .invalidMarker)) ∧
  (∀ (s : State) (fills : Nat),
    s.reader.holds (List.replicate (fills + 1) 0xFF ++ [0xD0 + s.work.rstn.zeroExtend 8]) = true →
    exec .restart s = .next ({ s with
      reader := { s.reader with rp := s.reader.rp + fills + 2, rcnt := 0 }
      work := { s.work with rstn := s.work.rstn + 1, pred := Vector.replicate 4 0 } }.returning .none)) ∧
  (∀ s : State,
    (∀ fills, s.reader.holds (List.replicate (fills + 1) 0xFF ++ [0xD0 + s.work.rstn.zeroExtend 8]) = false) →
    ∃ t, exec .restart s = .next t ∧ t.failedWith .missingRestartMarker)

/-- The walk captures the segments in its way and ends after the EOI that follows them, leaving what stands behind it
unread. It is one marker after the other: where `read_marker` fails it fails, where the rule of a marker stops it stops in
the same state, after EOI it ends, and after any other rule it goes on. DECODE is `check_soi` and then the walk: where one
of them stops DECODE stops in the same state, else it ends in `DECODED` (spec R9, R180 to R182, R184 to R186, R194, R207, R320,
R324). That a marker's rule can run alone and where it then stands are log entry 8; the state of a stopped run is log entries
5 and 7. -/
def Obligations.WalkEndsAtEoi : Prop :=
  (∀ (s : State) (records : List SegRecord), s.image.scans ≠ [] → s.image.fEoi = false →
    (∀ r ∈ records, r.ok = true) →
    s.reader.holds ((records.flatMap fun r => segmentBytes r.marker r.payload) ++ [0xFF, 0xD9]) = true →
    ∃ t, exec .walk s = .next t ∧ t.image = { s.image with seg := s.image.seg ++ records, fEoi := true } ∧
      t.reader.rp = s.reader.rp + (records.flatMap fun r => segmentBytes r.marker r.payload).length + 2 ∧
      t.reader.inp = s.reader.inp ∧ t.work = s.work ∧ t.writer = s.writer ∧ t.status = s.status ∧ t.agent = s.agent) ∧
  (∀ (s t : State) (kind : ErrKind), s.status.phase ≠ .failed → exec .readMarker s = .next t → t.failedWith kind →
    ∃ u, exec .walk s = .next u ∧ u.failedWith kind) ∧
  (∀ (s t : State) (fills : Nat) (m : Byte), m ≠ 0x00 → m ≠ 0xFF →
    s.reader.holds (List.replicate (fills + 1) 0xFF ++ [m]) = true →
    exec (decodeMarkerCode m)
      { s with reader := { s.reader with rp := s.reader.rp + fills + 2, rcnt := 0 }
               walk := { s.walk with mpos := s.reader.rp - s.walk.fills, fills := 0 } } = .next t →
    (t.status.phase ≠ s.status.phase → exec .walk s = .next t) ∧
    (t.status.phase = s.status.phase → s.status.phase ≠ .failed → s.status.phase ≠ .refused →
      (t.image.fEoi = true → exec .walk s = .next t) ∧
      (t.image.fEoi = false →
        exec .walk s = exec .walk { t with port := { t.port with result := s.port.result } }))) ∧
  (∀ (s : State) (buf : List Byte), (s.status.phase = .idle ∨ s.status.phase = .decoded) →
    let begun : State := { s with
      reader := { Reader.reset with inp := buf }, work := Work.reset, image := Image.reset
      walk := { Sequencer.reset with level := .marker }, status := { s.status with phase := .busyDec } }
    (∀ t, exec .checkSoi begun = .next t → t.status.phase ≠ .busyDec → exec (.decode buf) s = .next t) ∧
    (∀ (t : State) (rest : List Byte), buf = 0xFF :: 0xD8 :: rest →
      exec .walk { begun with reader := { begun.reader with rp := 2 }
                              image := { begun.image with fSoi := true } } = .next t →
      (t.status.phase ≠ .busyDec → exec (.decode buf) s = .next t) ∧
      (t.status.phase = .busyDec → exec (.decode buf) s = .next { t with
        status := { t.status with phase := .decoded }, walk := { t.walk with level := .command } })))

/-! ### Symbols -/

/-- `DC S=n` reads its magnitude bits, adds the difference to the component's predictor and stores the sum as `CB[0]`;
without the bits it is `UnexpectedEndOfStream`; a symbol above 11 is refused (spec R93, R95, R200). That the row run alone
takes the component in `walk.du`, outside a data unit too, is the model's choice, log entry 8. -/
def Obligations.DcSymbolsMoveThePredictor : Prop :=
  (∀ (s : State) (n : Fin 12) (bits : List Bool) (r : Reader), s.reader.takeBits n.val = some (bits, r) →
    exec (.dcSize n) s = .next ({ s with
      reader := r
      work := { s.work with
        pred := s.work.pred.set s.walk.du.ci (s.work.pred[s.walk.du.ci] + extend (bitsToNat bits) n.val)
        cb := s.work.cb.set 0 (s.work.pred[s.walk.du.ci] + extend (bitsToNat bits) n.val) } }.returning .none)) ∧
  (∀ (s : State) (n : Fin 12), s.reader.takeBits n.val = none →
    ∃ t, exec (.dcSize n) s = .next t ∧ t.failedWith .unexpectedEndOfStream) ∧
  (∀ (s : State) (sym : Byte), ∃ t, exec (.illegalDc sym) s = .next t ∧ t.refusedWith .dcSizeOutOfRange)

/-- EOB ends the unit, ZRL skips 16, the general symbol skips `R` and stores one value at the next index; a run past index
63 is refused (spec R94, R201). That the rows do so with a `k` outside `1..63` too is the model's choice (log entry 23). -/
def Obligations.AcSymbolsFillTheBlock : Prop :=
  (∀ s : State, exec .eob s = .next (s.returning (.bool true))) ∧
  (∀ s : State,
    (s.work.k ≤ 48 → exec .zrl s = .next ({ s with work := { s.work with k := s.work.k + 16 } }.returning (.bool false))) ∧
    (48 < s.work.k → ∃ t, exec .zrl s = .next t ∧ t.refusedWith .acIndexOverflow)) ∧
  (∀ (s : State) (run sz : BitVec 4), (Instr.acRunSize run sz).wellFormed = true →
    (∀ (h : s.work.k + run.toNat < 64) (bits : List Bool) (r : Reader),
      s.reader.takeBits sz.toNat = some (bits, r) →
      exec (.acRunSize run sz) s = .next ({ s with
        reader := r
        work := { s.work with
          cb := s.work.cb.set (s.work.k + run.toNat) (extend (bitsToNat bits) sz.toNat) h
          k := s.work.k + run.toNat + 1 } }.returning (.bool false))) ∧
    (64 ≤ s.work.k + run.toNat → ∃ t, exec (.acRunSize run sz) s = .next t ∧ t.refusedWith .acIndexOverflow) ∧
    (s.work.k + run.toNat < 64 → s.reader.takeBits sz.toNat = none →
      ∃ t, exec (.acRunSize run sz) s = .next t ∧ t.failedWith .unexpectedEndOfStream))

/-- A fill byte is skipped; the pair `FF 00` is one data byte; padding empties the byte under way, for the reader without
a look at the bits, for the writer with 1-bits (spec R81, R91, R100, R135, R143). That FILL, STUFF and PAD stand alone as
instructions is the model's choice, log entry 8; that FILL takes an `0xFF` behind which no other one stands, log entry 24; that STUFF runs
with bits unread too, log entry 25. -/
def Obligations.EscapesAndPaddingMoveTheCursor : Prop :=
  (∀ s : State, s.reader.holds [0xFF] = true →
    exec .fill s = .next ({ s with
      reader := { s.reader with rp := s.reader.rp + 1 }
      walk := { s.walk with fills := s.walk.fills + 1 } }.returning .none)) ∧
  (∀ s : State, s.reader.holds [0xFF, 0x00] = true →
    exec .stuff s = .next ({ s with
      reader := { s.reader with racc := 0xFF, rp := s.reader.rp + 2, rcnt := 8 } }.returning .none)) ∧
  (∀ (s : State) (n : Nat), 1 ≤ n → n ≤ 7 → s.status.phase ≠ .busyEnc → s.reader.rcnt = n →
    exec (.pad n) s = .next ({ s with reader := { s.reader with rcnt := 0 } }.returning .none)) ∧
  (∀ (s : State) (n : Nat), 1 ≤ n → n ≤ 7 → s.status.phase = .busyEnc → s.writer.ok = true → s.writer.wcnt + n = 8 →
    exec (.pad n) s = .next ({ s with writer :=
      { out := s.writer.out ++ entropyBytes (natToBits s.writer.wacc.toNat s.writer.wcnt), wacc := 0, wcnt := 0 }
      }.returning .none))

/-! ### The bitstream unit -/

/-- `br_attach` positions the reader and empties it; `align_to_byte` drops the unread bits and keeps `rp` and `racc`;
`peek_marker` reports the byte after an `0xFF` at `rp` unless it is zero, and consumes nothing (spec R130, R134, R135). -/
def Obligations.ReaderIsPositionedAndPeeked : Prop :=
  (∀ (s : State) (p : Nat), p ≤ s.reader.inlen →
    exec (.brAttach p) s = .next ({ s with reader := { s.reader with rp := p, racc := 0, rcnt := 0 } }.returning .none)) ∧
  (∀ s : State, exec .alignToByte s = .next ({ s with reader := { s.reader with rcnt := 0 } }.returning .none)) ∧
  (∀ (s : State) (m : Byte), s.reader.holds [0xFF, m] = true → m ≠ 0 →
    exec .peekMarker s = .next (s.returning (.marker (some m)))) ∧
  (∀ s : State, (∀ m : Byte, m ≠ 0 → s.reader.holds [0xFF, m] = false) →
    exec .peekMarker s = .next (s.returning (.marker none)))

/-- `fetch_byte`, `read_bit` and `read_bits` deliver the destuffed bits in order, first bit most significant; at a marker
and at the end of the buffer they are `UnexpectedEndOfStream`, and a failed fetch or bit moves no register of the reader;
more than 16 bits are refused (spec R131 to R133). That `fetch_byte` does so with bits unread too is the model's choice, log
entry 25. -/
def Obligations.ReaderDeliversBitsInOrder : Prop :=
  (∀ s : State,
    (∀ r, s.reader.fetched = some r → exec .fetchByte s = .next ({ s with reader := r }.returning .none)) ∧
    (s.reader.fetched = none →
      ∃ t, exec .fetchByte s = .next t ∧ t.failedWith .unexpectedEndOfStream ∧ t.reader = s.reader)) ∧
  (∀ s : State,
    (∀ b r, s.reader.nextBit = some (b, r) → exec .readBit s = .next ({ s with reader := r }.returning (.bool b))) ∧
    (s.reader.nextBit = none →
      ∃ t, exec .readBit s = .next t ∧ t.failedWith .unexpectedEndOfStream ∧ t.reader = s.reader)) ∧
  (∀ (s : State) (n : Nat),
    (n ≤ 16 → ∀ bits r, s.reader.takeBits n = some (bits, r) →
      exec (.readBits n) s = .next ({ s with reader := r }.returning (.nat (bitsToNat bits)))) ∧
    (n ≤ 16 → s.reader.takeBits n = none → ∃ t, exec (.readBits n) s = .next t ∧ t.failedWith .unexpectedEndOfStream) ∧
    (16 < n → ∃ t, exec (.readBits n) s = .next t ∧ t.refusedWith .badOperand))

/-- The reader laws. From a byte boundary the reader delivers exactly the bits of the destuffed bytes up to a marker or the
end, as many calls of `read_bit` as one likes, and as `read_bits` of up to 16; it has then fetched as many bytes as the bits
need and no more. `rp` never falls and never passes the end, however a call ends; and a byte is fetched only when a bit of it
is asked for (spec R137). -/
def Obligations.ReaderDeliversTheDestuffedBytes : Prop :=
  (∀ (s : State) (n : Nat), s.reader.rcnt = 0 →
    let bits := bytesToBits (destuff (s.reader.inp.drop s.reader.rp))
    (n ≤ bits.length →
      ∃ r : Reader, (readBitsFrom 0 n).run s = .ok (bitsToNat (bits.take n)) { s with reader := r } ∧
        r.inp = s.reader.inp ∧ s.reader.rp ≤ r.rp ∧ r.rcnt = (8 - n % 8) % 8 ∧
        (destuff ((s.reader.inp.drop s.reader.rp).take (r.rp - s.reader.rp))).length = (n + 7) / 8 ∧
        (n ≤ 16 → exec (.readBits n) s = .next ({ s with reader := r }.returning (.nat (bitsToNat (bits.take n)))))) ∧
    (bits.length < n →
      (∃ pos t, (readBitsFrom 0 n).run s = .error (.raised .unexpectedEndOfStream pos) t) ∧
      (n ≤ 16 → ∃ t, exec (.readBits n) s = .next t ∧ t.failedWith .unexpectedEndOfStream))) ∧
  (∀ (s t : State) (v n w : Nat), (readBitsFrom v n).run s = .ok w t →
    t.reader.inp = s.reader.inp ∧ s.reader.rp ≤ t.reader.rp ∧
    (s.reader.rp ≤ s.reader.inlen → t.reader.rp ≤ t.reader.inlen) ∧
    (s.reader.rcnt ≤ 8 → 0 < n → t.reader.rcnt < 8) ∧ (n ≤ s.reader.rcnt → t.reader.rp = s.reader.rp)) ∧
  (∀ (s t : State) (n : Nat) (i : Instr),
    i ∈ [Instr.fetchByte, .readBit, .readBits n, .peekMarker, .alignToByte, .readMarker] → exec i s = .next t →
    t.reader.inp = s.reader.inp ∧ s.reader.rp ≤ t.reader.rp ∧
    (s.reader.rp ≤ s.reader.inlen → t.reader.rp ≤ t.reader.inlen)) ∧
  (∀ s t : State, exec .readBit s = .next t → 0 < s.reader.rcnt → t.reader.rp = s.reader.rp)

/-- `read_marker` skips fill bytes and answers the code byte; a byte other than `0xFF`, and a zero code, are
`InvalidMarker`; the end of the buffer is `UnexpectedEndOfStream` (spec R81, R136). The empty bit reader after it is D11,
log entry 6. -/
def Obligations.ReadMarkerSkipsFillBytes : Prop :=
  (∀ (s : State) (fills : Nat) (m : Byte), s.reader.holds (List.replicate (fills + 1) 0xFF ++ [m]) = true →
    m ≠ 0xFF →
    (m ≠ 0 → exec .readMarker s = .next ({ s with
      reader := { s.reader with rp := s.reader.rp + fills + 2, rcnt := 0 } }.returning (.byte m))) ∧
    (m = 0 → ∃ t, exec .readMarker s = .next t ∧ t.failedWith .invalidMarker)) ∧
  (∀ (s : State) (b : Byte), s.reader.holds [b] = true → b ≠ 0xFF →
    ∃ t, exec .readMarker s = .next t ∧ t.failedWith .invalidMarker) ∧
  (∀ (s : State) (fills : Nat), s.reader.inp.drop s.reader.rp = List.replicate fills 0xFF →
    ∃ t, exec .readMarker s = .next t ∧ t.failedWith .unexpectedEndOfStream)

/-- `bw_reset` empties the writer registers and keeps `OUT`; `emit_byte` appends its byte and a zero after `0xFF`;
`put_raw` appends its bytes as they are, and needs an empty writer (spec R140, R141, R144). -/
def Obligations.WriterAppendsBytes : Prop :=
  (∀ s : State, exec .bwReset s = .next ({ s with writer := { s.writer with wacc := 0, wcnt := 0 } }.returning .none)) ∧
  (∀ (s : State) (b : Byte), exec (.emitByte b) s = .next ({ s with
    writer := { s.writer with out := s.writer.out ++ (if b = 0xFF then [0xFF, 0x00] else [b]) } }.returning .none)) ∧
  (∀ (s : State) (bytes : List Byte), s.writer.wcnt = 0 → exec (.putRaw bytes) s = .next ({ s with
    writer := { s.writer with out := s.writer.out ++ bytes } }.returning .none))

/-- `write_bits` appends the low `n` bits, most significant first, to the bits gathered: whole bytes go to `OUT` stuffed,
the rest stays in `wacc`; more than 16 bits are refused. `flush_with_padding` completes the last byte with 1-bits, and
writes nothing when none are gathered (spec R142, R143). -/
def Obligations.WriterPacksBits : Prop :=
  (∀ (s : State) (value n : Nat), s.writer.ok = true →
    (n ≤ 16 →
      let bits := natToBits s.writer.wacc.toNat s.writer.wcnt ++ natToBits value n
      exec (.writeBits value n) s = .next ({ s with
        writer :=
          { out := s.writer.out ++ entropyBytes (bits.take (8 * (bits.length / 8)))
            wacc := BitVec.ofNat 8 (bitsToNat (bits.drop (8 * (bits.length / 8))))
            wcnt := bits.length % 8 } }.returning .none)) ∧
    (16 < n → ∃ t, exec (.writeBits value n) s = .next t ∧ t.refusedWith .badOperand)) ∧
  (∀ s : State, s.writer.ok = true →
    (0 < s.writer.wcnt →
      exec .flushWithPadding s = .next ({ s with
        writer :=
          { out := s.writer.out ++ entropyBytes (natToBits s.writer.wacc.toNat s.writer.wcnt), wacc := 0, wcnt := 0 }
        }.returning .none)) ∧
    (s.writer.wcnt = 0 → exec .flushWithPadding s = .next (s.returning .none)))

/-- The bits written and flushed from a reset writer are read back by a reader attached to the bytes, whatever marker or
nothing follows; what is left is fewer than 8 bits, all ones; and no `0xFF` stands without its zero (spec R145). -/
def Obligations.WrittenBitsAreReadBack : Prop :=
  ∀ (ops : List (Nat × Nat)) (tail : List Byte) (s : State), (∀ op ∈ ops, op.2 ≤ 16) →
    (tail = [] ∨ ∃ (m : Byte) (rest : List Byte), tail = 0xFF :: m :: rest ∧ m ≠ 0) →
    let w : Writer := (ops.foldl (fun (w : Writer) (op : Nat × Nat) => w.writeBits op.1 op.2) Writer.reset).flush
    s.reader = { inp := w.out ++ tail, rp := 0, racc := 0, rcnt := 0 } →
    (∃ t : State, (ops.mapM fun (op : Nat × Nat) => readBits op.2).run s =
        .ok (ops.map fun (op : Nat × Nat) => op.1 % 2 ^ op.2) t ∧
      t.reader.rp = w.out.length ∧ t.reader.rcnt < 8 ∧ ∀ i : Nat, i < t.reader.rcnt → t.reader.racc.getLsbD i = true) ∧
    (∀ i : Nat, w.out[i]? = some (0xFF : Byte) → w.out[i + 1]? = some (0x00 : Byte))

/-! ### The Huffman unit -/

/-- `build_table` answers the canonical codes: lengths ascending as the counts say, the first code 0, each next code one
more, shifted left on entering a longer length; it refuses exactly the over-subscribed tables; and the codes are prefix
free (spec R161, R162). -/
def Obligations.BuildTableAssignsCanonicalCodes : Prop :=
  (∀ (s : State) (counts : Vector Byte 16) (values : List Byte), values.length = totalOf counts →
    (∀ cs, buildTable counts = some cs → exec (.buildTable counts values) s = .next (s.returning (.codes cs))) ∧
    (buildTable counts = none → ∃ t, exec (.buildTable counts values) s = .next t ∧
      t.refusedWith .huffmanOversubscribed)) ∧
  (∀ counts : Vector Byte 16, (buildTable counts).isSome ↔
    ∀ len, 1 ≤ len → len ≤ 16 →
      (((counts.toList.map BitVec.toNat).take len).zipIdx.map fun e => e.1 * 2 ^ (len - (e.2 + 1))).sum ≤ 2 ^ len) ∧
  (∀ (counts : Vector Byte 16) (cs : List (Nat × Nat)), buildTable counts = some cs →
    cs.map Prod.snd =
      ((counts.toList.map BitVec.toNat).zipIdx.flatMap fun e => List.replicate e.1 (e.2 + 1)) ∧
    (∀ (c len : Nat), cs[0]? = some (c, len) → c = 0) ∧
    (∀ (i c len c' len' : Nat), cs[i]? = some (c, len) → cs[i + 1]? = some (c', len') →
      c' = (c + 1) * 2 ^ (len' - len)) ∧
    (∀ (i j c len c' len' : Nat), i < j → cs[i]? = some (c, len) → cs[j]? = some (c', len') →
      c < 2 ^ len ∧ c' < 2 ^ len' ∧ c' / 2 ^ (len' - len) ≠ c))

/-- `huff_decode` reads one code word and answers its symbol, reading exactly its bits; 16 bits without a code are
`InvalidHuffmanCode`, as every 16 bits are for a table that is not valid; a stream that ends first is
`UnexpectedEndOfStream` (spec R163, R165, R324). -/
def Obligations.HuffDecodeReadsOneCode : Prop :=
  (∀ (s : State) (tc : TableClass) (th : Slot) (cs : List (Nat × Nat)) (c len : Nat) (sym : Byte) (r : Reader),
    (s.image.ht tc th).valid = true → buildTable (s.image.ht tc th).counts = some cs →
    ((c, len), sym) ∈ cs.zip (s.image.ht tc th).values → s.reader.takeBits len = some (natToBits c len, r) →
    exec (.huffDecode tc th) s = .next ({ s with reader := r }.returning (.byte sym))) ∧
  (∀ (s : State) (tc : TableClass) (th : Slot) (cs : List (Nat × Nat)) (bits : List Bool) (r : Reader),
    (s.image.ht tc th).valid = true → buildTable (s.image.ht tc th).counts = some cs →
    s.reader.takeBits 16 = some (bits, r) →
    (∀ e ∈ cs.zip (s.image.ht tc th).values, (natToBits e.1.1 e.1.2).isPrefixOf bits = false) →
    ∃ t, exec (.huffDecode tc th) s = .next t ∧ t.failedWith .invalidHuffmanCode) ∧
  (∀ (s : State) (tc : TableClass) (th : Slot) (cs : List (Nat × Nat)) (n : Nat) (bits : List Bool) (r : Reader),
    (s.image.ht tc th).valid = true → buildTable (s.image.ht tc th).counts = some cs → n < 16 →
    s.reader.takeBits n = some (bits, r) → s.reader.takeBits (n + 1) = none →
    (∀ e ∈ cs.zip (s.image.ht tc th).values, (natToBits e.1.1 e.1.2).isPrefixOf bits = false) →
    ∃ t, exec (.huffDecode tc th) s = .next t ∧ t.failedWith .unexpectedEndOfStream) ∧
  (∀ (s : State) (tc : TableClass) (th : Slot), (s.image.ht tc th).valid = false →
    (s.reader.takeBits 16 ≠ none → ∃ t, exec (.huffDecode tc th) s = .next t ∧ t.failedWith .invalidHuffmanCode) ∧
    (s.reader.takeBits 16 = none → ∃ t, exec (.huffDecode tc th) s = .next t ∧ t.failedWith .unexpectedEndOfStream))

/-- `huff_encode` writes the code of a symbol that occurs in the table, and that code followed by any bits decodes to the
symbol, consuming exactly its length; a symbol without a code is `InvalidHuffmanCode` (spec R164, R168). -/
def Obligations.HuffmanCodesRoundTrip : Prop :=
  (∀ (s : State) (tc : TableClass) (th : Slot) (sym : Byte), (s.image.ht tc th).valid = true →
    (s.image.ht tc th).ok = true → sym ∈ (s.image.ht tc th).values →
    ∃ code, (s.image.ht tc th).codeOf sym = some code ∧ 1 ≤ code.length ∧ code.length ≤ 16 ∧
      exec (.huffEncode tc th sym) s = .next ({ s with
        writer := code.foldl Writer.writeBit s.writer }.returning .none) ∧
      ∀ (s' : State) (r : Reader), s'.image.ht tc th = s.image.ht tc th →
        s'.reader.takeBits code.length = some (code, r) →
        exec (.huffDecode tc th) s' = .next ({ s' with reader := r }.returning (.byte sym))) ∧
  (∀ (s : State) (tc : TableClass) (th : Slot) (sym : Byte), (s.image.ht tc th).ok = true →
    ((s.image.ht tc th).valid = false ∨ sym ∉ (s.image.ht tc th).values) →
    ∃ t, exec (.huffEncode tc th sym) s = .next t ∧ t.failedWith .invalidHuffmanCode)

/-- The magnitude functions: `size` is the number of bits of the absolute value, `magbits` fits it, `extend` inverts the
pair and has the stated range; and the three procedures answer them (spec R202, R253, R254). -/
def Obligations.MagnitudeBitsRoundTrip : Prop :=
  (∀ (s : State) (v : Int), exec (.size v) s = .next (s.returning (.nat (size v))) ∧
    exec (.magbits v (size v)) s = .next (s.returning (.nat (magbits v (size v))))) ∧
  (∀ (s : State) (bits n : Nat), n ≤ 15 → bits < 2 ^ n →
    exec (.extend bits n) s = .next (s.returning (.int (extend bits n)))) ∧
  size 0 = 0 ∧ (∀ v : Int, v ≠ 0 → 1 ≤ size v ∧ 2 ^ (size v - 1) ≤ v.natAbs ∧ v.natAbs < 2 ^ size v) ∧
  (∀ v : Int, size (-v) = size v) ∧
  (∀ v : Int, magbits v (size v) < 2 ^ size v ∧ extend (magbits v (size v)) (size v) = v) ∧
  (∀ v : Int, 0 < v → (magbits v (size v) : Int) = v ∧ 2 ^ (size v - 1) ≤ magbits v (size v)) ∧
  (∀ v : Int, v < 0 → (magbits v (size v) : Int) = v + (2 ^ size v : Nat) - 1 ∧
    magbits v (size v) < 2 ^ (size v - 1)) ∧
  extend 0 0 = 0 ∧
  (∀ bits n : Nat, 1 ≤ n → bits < 2 ^ (n - 1) → extend bits n = (bits : Int) - (2 ^ n : Nat) + 1) ∧
  (∀ bits n : Nat, 1 ≤ n → 2 ^ (n - 1) ≤ bits → bits < 2 ^ n → extend bits n = bits)

/-! ### Blocks, scans and whole streams -/

/-- Decoding a data unit: `decode_dc`, `decode_ac` and `decode_block` read exactly the codes of a block and leave its
coefficients, its predictor and the reader behind it. A DC symbol above 11 and a run past index 63 are refused, a symbol of
size 0 behind a run stores a 0, magnitude bits that the stream lacks are `UnexpectedEndOfStream`, what `huff_decode` ends in
the procedure ends in. `decode_block` is `decode_dc` on a cleared block and then `decode_ac` from `k = 1` on, until it says
stop, `k` passes 63 or one of them ends in an error or a refusal (spec R92, R94, R199 to R201). That `decode_ac` does so with
a `k` outside `1..63` too is the model's choice (log entry 23). -/
def Obligations.DecodeBlockReadsTheDataUnit : Prop :=
  (∀ (s : State) (ci td : Slot) (diff : Int) (bits : List Bool) (r : Reader),
    dcBits (s.image.ht .dc td) diff = some bits → s.reader.takeBits bits.length = some (bits, r) →
    exec (.decodeDc ci td) s = .next ({ s with
      reader := r
      work := { s.work with pred := s.work.pred.set ci (s.work.pred[ci] + diff)
                            cb := s.work.cb.set 0 (s.work.pred[ci] + diff) } }.returning .none)) ∧
  (∀ (s : State) (ta : Slot) (code : List Bool) (r : Reader), (s.image.ht .ac ta).codeOf 0x00 = some code →
    s.reader.takeBits code.length = some (code, r) →
    exec (.decodeAc ta) s = .next ({ s with reader := r }.returning (.bool true))) ∧
  (∀ (s : State) (ta : Slot) (code : List Bool) (r : Reader), (s.image.ht .ac ta).codeOf 0xF0 = some code →
    s.reader.takeBits code.length = some (code, r) → s.work.k ≤ 48 →
    exec (.decodeAc ta) s = .next ({ s with
      reader := r, work := { s.work with k := s.work.k + 16 } }.returning (.bool false))) ∧
  (∀ (s : State) (ta : Slot) (run : BitVec 4) (v : Int) (code : List Bool) (r : Reader)
    (h : s.work.k + run.toNat < 64), v ≠ 0 → size v ≤ 15 →
    (s.image.ht .ac ta).codeOf (nibbles run (BitVec.ofNat 4 (size v))) = some code →
    s.reader.takeBits (code.length + size v) = some (code ++ natToBits (magbits v (size v)) (size v), r) →
    exec (.decodeAc ta) s = .next ({ s with
      reader := r
      work := { s.work with cb := s.work.cb.set (s.work.k + run.toNat) v h
                            k := s.work.k + run.toNat + 1 } }.returning (.bool false))) ∧
  (∀ (s : State) (ci td : Slot) (sym : Byte) (code : List Bool) (r : Reader),
    (s.image.ht .dc td).codeOf sym = some code → s.reader.takeBits code.length = some (code, r) →
    (12 ≤ sym.toNat → ∃ t, exec (.decodeDc ci td) s = .next t ∧ t.refusedWith .dcSizeOutOfRange) ∧
    (sym.toNat < 12 → r.takeBits sym.toNat = none →
      ∃ t, exec (.decodeDc ci td) s = .next t ∧ t.failedWith .unexpectedEndOfStream)) ∧
  (∀ (s : State) (ta : Slot) (run sz : BitVec 4) (code : List Bool) (r : Reader),
    (s.image.ht .ac ta).codeOf (nibbles run sz) = some code → s.reader.takeBits code.length = some (code, r) →
    (run = 15 → sz = 0 → 48 < s.work.k →
      ∃ t, exec (.decodeAc ta) s = .next t ∧ t.refusedWith .acIndexOverflow) ∧
    ((Instr.acRunSize run sz).wellFormed = true →
      (64 ≤ s.work.k + run.toNat → ∃ t, exec (.decodeAc ta) s = .next t ∧ t.refusedWith .acIndexOverflow) ∧
      (s.work.k + run.toNat < 64 → r.takeBits sz.toNat = none →
        ∃ t, exec (.decodeAc ta) s = .next t ∧ t.failedWith .unexpectedEndOfStream) ∧
      (∀ h : s.work.k + run.toNat < 64, sz = 0 →
        exec (.decodeAc ta) s = .next ({ s with
          reader := r
          work := { s.work with cb := s.work.cb.set (s.work.k + run.toNat) 0 h
                                k := s.work.k + run.toNat + 1 } }.returning (.bool false))))) ∧
  (∀ (s t : State) (ci th : Slot) (kind : ErrKind), s.status.phase ≠ .failed →
    (exec (.huffDecode .dc th) s = .next t → t.failedWith kind →
      ∃ u, exec (.decodeDc ci th) s = .next u ∧ u.failedWith kind) ∧
    (exec (.huffDecode .ac th) s = .next t → t.failedWith kind →
      ∃ u, exec (.decodeAc th) s = .next u ∧ u.failedWith kind)) ∧
  (∀ (s t : State) (ci td ta : Slot),
    exec (.decodeDc ci td) { s with work := { s.work with cb := Vector.replicate 64 0 } } = .next t →
    (t.status.phase ≠ s.status.phase → exec (.decodeBlock ci td ta) s = .next t) ∧
    (t.status.phase = s.status.phase → s.status.phase ≠ .failed → s.status.phase ≠ .refused →
      exec (.decodeBlock ci td ta) s =
        acLoop ta 63 { t with work := { t.work with k := 1 }, port := { t.port with result := s.port.result } })) ∧
  (∀ (s : State) (ci td ta : Slot) (cb : Vector Int 64) (bits : List Bool) (r : Reader),
    blockBits (s.image.ht .dc td) (s.image.ht .ac ta) s.work.pred[ci] cb = some bits →
    s.reader.takeBits bits.length = some (bits, r) →
    ∃ k, 1 ≤ k ∧ k ≤ 64 ∧ exec (.decodeBlock ci td ta) s = .next ({ s with
      reader := r
      work := { s.work with cb := cb, k := k, pred := s.work.pred.set ci cb[0] } }.returning .none))

/-- Encoding a data unit: `encode_dc`, `encode_ac` and `encode_block` write exactly the codes of the block in `CB`, and
change the writer, the predictor and `k` only. A difference above 11 bits, a value above 15 bits at any index, and a symbol
without a code end as stated, whichever comes first; and `encode_block` is `encode_dc`, then `encode_ac` (spec R164, R251,
R252, R255). -/
def Obligations.EncodeBlockWritesTheDataUnit : Prop :=
  (∀ (s : State) (ci td : Slot) (bits : List Bool),
    dcBits (s.image.ht .dc td) (s.work.cb[0] - s.work.pred[ci]) = some bits →
    exec (.encodeDc ci td) s = .next ({ s with
      writer := bits.foldl Writer.writeBit s.writer
      work := { s.work with pred := s.work.pred.set ci s.work.cb[0] } }.returning .none)) ∧
  (∀ (s : State) (ci td : Slot), 2048 ≤ (s.work.cb[0] - s.work.pred[ci]).natAbs →
    ∃ t, exec (.encodeDc ci td) s = .next t ∧ t.refusedWith .dcDiffOutOfRange) ∧
  (∀ (s : State) (ci td : Slot), (s.work.cb[0] - s.work.pred[ci]).natAbs < 2048 → (s.image.ht .dc td).ok = true →
    (s.image.ht .dc td).codeOf (BitVec.ofNat 8 (size (s.work.cb[0] - s.work.pred[ci]))) = none →
    ∃ t, exec (.encodeDc ci td) s = .next t ∧ t.failedWith .invalidHuffmanCode) ∧
  (∀ (s : State) (ta : Slot) (bits : List Bool), acBits (s.image.ht .ac ta) 0 s.work.cb.toList.tail = some bits →
    ∃ k, exec (.encodeAc ta) s = .next ({ s with
      writer := bits.foldl Writer.writeBit s.writer, work := { s.work with k := k } }.returning .none)) ∧
  (∀ (s : State) (ta : Slot) (before after : List Int) (v : Int) (bits : List Bool) (r : Nat),
    s.work.cb.toList.tail = before ++ v :: after → v ≠ 0 → acRunBits (s.image.ht .ac ta) 0 before = some (bits, r) →
    (32768 ≤ v.natAbs → zrlBits (s.image.ht .ac ta) (r / 16) ≠ none →
      ∃ t, exec (.encodeAc ta) s = .next t ∧ t.refusedWith .acMagnitudeOutOfRange) ∧
    ((s.image.ht .ac ta).ok = true → zrlBits (s.image.ht .ac ta) (r / 16) = none →
      ∃ t, exec (.encodeAc ta) s = .next t ∧ t.failedWith .invalidHuffmanCode) ∧
    ((s.image.ht .ac ta).ok = true → v.natAbs < 32768 →
      (s.image.ht .ac ta).codeOf (nibbles (BitVec.ofNat 4 (r % 16)) (BitVec.ofNat 4 (size v))) = none →
      ∃ t, exec (.encodeAc ta) s = .next t ∧ t.failedWith .invalidHuffmanCode)) ∧
  (∀ (s : State) (ta : Slot) (bits : List Bool) (r : Nat), (s.image.ht .ac ta).ok = true →
    acRunBits (s.image.ht .ac ta) 0 s.work.cb.toList.tail = some (bits, r) → 0 < r →
    (s.image.ht .ac ta).codeOf 0x00 = none →
    ∃ t, exec (.encodeAc ta) s = .next t ∧ t.failedWith .invalidHuffmanCode) ∧
  (∀ (s : State) (ci td ta : Slot) (bits : List Bool),
    blockBits (s.image.ht .dc td) (s.image.ht .ac ta) s.work.pred[ci] s.work.cb = some bits →
    ∃ k, exec (.encodeBlock ci td ta) s = .next ({ s with
      writer := bits.foldl Writer.writeBit s.writer
      work := { s.work with k := k, pred := s.work.pred.set ci s.work.cb[0] } }.returning .none)) ∧
  (∀ (s t : State) (ci td ta : Slot), exec (.encodeDc ci td) s = .next t →
    (dcBits (s.image.ht .dc td) (s.work.cb[0] - s.work.pred[ci]) ≠ none →
      exec (.encodeBlock ci td ta) s = exec (.encodeAc ta) t) ∧
    (dcBits (s.image.ht .dc td) (s.work.cb[0] - s.work.pred[ci]) = none →
      exec (.encodeBlock ci td ta) s = .next t))

/-- A scan whose entropy-coded bytes stand at `rp` is decoded whole, as `decode_scan` and as SOS with its header in front:
the cells of its components read as coded, every other cell as before, and the reader stands aligned behind the bytes
(spec R91, R193, R197, R198, R204). -/
def Obligations.ScanDecodesItsEntropyData : Prop :=
  (∀ (s : State) (sc : Scan) (m : Memory) (bytes : List Byte),
    s.image.ok = true → s.image.plane.wf = true → s.image.scans.getLast? = some sc →
    { s.image with plane := m, scans := [sc] }.scanBytes = some bytes → s.reader.holds bytes = true →
    s.notCancelled s.image.frame.mcuCount = true →
    ∃ t, exec .decodeScan s = .next t ∧ t.image = { s.image with plane := t.image.plane } ∧
      (∀ c ∈ sc.sc, ∀ row col i, s.image.frame.hasCell c.ci row col i = true →
        t.image.plane.read (cellAddr c.ci row col i) = m.read (cellAddr c.ci row col i)) ∧
      (∀ a, (∀ c ∈ sc.sc, ∀ row col i, s.image.frame.hasCell c.ci row col i = true → a ≠ cellAddr c.ci row col i) →
        t.image.plane.read a = s.image.plane.read a) ∧
      t.reader.inp = s.reader.inp ∧ t.reader.rp = s.reader.rp + bytes.length ∧ t.reader.rcnt = 0 ∧
      t.status = s.status ∧ t.writer = s.writer ∧ t.agent = s.agent) ∧
  (∀ (s : State) (sc : Scan) (m : Memory) (bytes : List Byte),
    s.image.ok = true → s.image.plane.wf = true → s.image.frame.valid = true → sc.ok s.image.frame = true →
    { s.image with plane := m, scans := [sc] }.scanBytes = some bytes →
    s.reader.holdsSegment (sosPayload s.image.frame sc) = true →
    (s.pastSegment (sosPayload s.image.frame sc)).reader.holds bytes = true →
    s.notCancelled s.image.frame.mcuCount = true →
    ∃ t, exec .sos s = .next t ∧
      t.image = { s.image with plane := t.image.plane, scans := s.image.scans ++ [sc] } ∧
      (∀ c ∈ sc.sc, ∀ row col i, s.image.frame.hasCell c.ci row col i = true →
        t.image.plane.read (cellAddr c.ci row col i) = m.read (cellAddr c.ci row col i)) ∧
      (∀ a, (∀ c ∈ sc.sc, ∀ row col i, s.image.frame.hasCell c.ci row col i = true → a ≠ cellAddr c.ci row col i) →
        t.image.plane.read a = s.image.plane.read a) ∧
      t.reader.inp = s.reader.inp ∧ t.reader.rcnt = 0 ∧
      t.reader.rp = s.reader.rp + ((sosPayload s.image.frame sc).length + 2) + bytes.length ∧
      t.status = s.status ∧ t.writer = s.writer ∧ t.agent = s.agent)

/-- Decoding the stream of an image: SOI, captured segments, tables, frame, interval, scan header, entropy-coded data and
EOI, with anything behind it, ends ok in `DECODED` and leaves that frame, scan, interval, segments, tables and cells (spec
R180, R207, R261). -/
def Obligations.DecodeReadsTheStreamOfAnImage : Prop :=
  ∀ (s : State) (im : Image) (sc : Scan) (data trailing : List Byte),
    (s.status.phase = .idle ∨ s.status.phase = .decoded) →
    im.ok = true → im.frame.valid = true → im.scans = [sc] → im.tablesReady = true → im.scanBytes = some data →
    s.notCancelled im.frame.mcuCount = true →
    ∃ t, exec (.decode (im.headBytes ++ data ++ [0xFF, 0xD9] ++ trailing)) s = .next t ∧
      t.status.phase = .decoded ∧ (s.status.err = .none → t.status.err = .none) ∧ t.image.fSoi = true ∧ t.image.fEoi = true ∧
      t.image.frame = im.frame ∧ t.image.scans = [sc] ∧ t.image.ri = im.ri ∧ t.image.seg = im.seg ∧
      (∀ q ∈ usedQuant im, t.image.qt[q] = im.qt[q]) ∧
      (∀ tc, ∀ h ∈ usedHuff im tc, t.image.ht tc h = im.ht tc h) ∧
      (∀ c ∈ sc.sc, ∀ row col i, im.frame.hasCell c.ci row col i = true →
        t.image.plane.read (cellAddr c.ci row col i) = im.plane.read (cellAddr c.ci row col i)) ∧
      (∀ a, (∀ c ∈ sc.sc, ∀ row col i, im.frame.hasCell c.ci row col i = true → a ≠ cellAddr c.ci row col i) →
        t.image.plane.read a = 0) ∧
      t.reader.rp = (im.headBytes ++ data).length + 2 ∧ t.writer = s.writer ∧ t.agent = s.agent

/-- Encoding an image whose blocks can be coded writes exactly that stream to `OUT`, ends in `DECODED`, and changes no
state but the writer and the working registers; `encode_scan` writes its entropy-coded part (spec R240 to R242, R250). -/
def Obligations.EncodeWritesTheStreamOfTheImage : Prop :=
  (∀ (s : State) (data : List Byte), s.status.phase = .decoded → s.image.nscan = 1 → s.image.tablesReady = true →
    s.image.scanBytes = some data → s.notCancelled s.image.frame.mcuCount = true →
    ∃ t, exec .encode s = .next t ∧ t.status = s.status ∧
      t.writer = { out := s.image.headBytes ++ data ++ [0xFF, 0xD9], wacc := 0, wcnt := 0 } ∧
      t.image = s.image ∧ t.reader = s.reader ∧ t.agent = s.agent) ∧
  (∀ (s : State) (data : List Byte), s.image.scans ≠ [] → s.writer.wcnt = 0 → s.writer.wacc = 0 →
    s.image.scanBytes = some data → s.notCancelled s.image.frame.mcuCount = true →
    ∃ t, exec .encodeScan s = .next t ∧ t.writer.flush.out = s.writer.out ++ data ∧
      t.status = s.status ∧ t.image = s.image ∧ t.reader = s.reader ∧ t.agent = s.agent)

/-- The encoder's invariant: whatever was decoded and whatever cells the host then wrote, if ENCODE ends ok, then DECODE
of its output ends ok with the same frame, scan record, interval, segments and used tables, and with every cell of every
scanned component equal (spec R240, R261). -/
def Obligations.DecodeOfEncodeRestoresTheImage : Prop :=
  ∀ (s t s' : State) (sc : Scan), s.status.phase = .decoded → s.image.ok = true → s.image.frame.valid = true →
    s.image.scans = [sc] → exec .encode s = .next t → t.status.phase = .decoded →
    (s'.status.phase = .idle ∨ s'.status.phase = .decoded) → s'.notCancelled s.image.frame.mcuCount = true →
    ∃ u, exec (.decode t.writer.out) s' = .next u ∧ u.status.phase = .decoded ∧
      u.image.frame = s.image.frame ∧ u.image.scans = [sc] ∧ u.image.ri = s.image.ri ∧ u.image.seg = s.image.seg ∧
      (∀ q ∈ usedQuant s.image, u.image.qt[q] = s.image.qt[q]) ∧
      (∀ tc, ∀ h ∈ usedHuff s.image tc, u.image.ht tc h = s.image.ht tc h) ∧
      (∀ c ∈ sc.sc, ∀ row col i, s.image.frame.hasCell c.ci row col i = true →
        u.image.plane.read (cellAddr c.ci row col i) = s.image.plane.read (cellAddr c.ci row col i))

/-- ENCODE reads the image state and never writes it, however it ends; its output is a function of the image and of `CANCEL`
alone, and an ENCODE that ends in an error or a refusal leaves `OUT` empty. `CANCEL` is sampled once before every MCU of a
scan: when the MCUs before number `n` went well and the sample then is 1, `encode_scan` and `decode_scan` end in `Cancelled`;
a scan that ends ok has taken one sample for each MCU, and every one was 0. The host agent samples it before every pair it
looks at: when the samples before pair `n` were 0, there is work left at that pair and the sample then is 1, `embed` and
`extract` end in `Cancelled`; cells written by then are discarded with the image, else nothing was touched (spec R206, R240,
R241, R259, R260, R302, R303, R323, R325, R328, R352). The samples stand in a list that the block and the host agent share
(log entry 12); the host agent's outcome stands in its status register, and it discards an image by RESET (log entry 17);
`encode_scan` runs with bits gathered too (log entry 26). -/
def Obligations.EncodeOnlyReadsTheImage : Prop :=
  (∀ s t : State, exec .encode s = .next t → t.image = s.image ∧ t.reader = s.reader ∧ t.agent = s.agent) ∧
  (∀ s1 s2 t1 t2 : State, s1.status.phase = .decoded → s2.status.phase = .decoded → s1.image = s2.image →
    s1.port.cancel = s2.port.cancel → exec .encode s1 = .next t1 → exec .encode s2 = .next t2 →
    t1.status.phase = t2.status.phase ∧ t1.writer.out = t2.writer.out) ∧
  (∀ s t : State, exec .encode s = .next t → t.status.phase = .decoded ∨
    ((t.status.phase = .failed ∨ t.status.phase = .refused) ∧ t.writer.out = [])) ∧
  (∀ (s t : State) (sc : Scan) (n : Nat), s.image.scans.getLast? = some sc → n < s.image.frame.mcuCount →
    (do brAttach s.reader.rp; scanBegin; decodeMcus sc.sc 0 n : Proc Unit).run s = .ok () t →
    t.port.cancel.headD false = true →
    ∃ u, exec .decodeScan s = .next u ∧ u.failedWith .cancelled) ∧
  (∀ (s t : State) (n : Nat), s.image.scans ≠ [] → n < s.image.frame.mcuCount →
    (do scanBegin; encodeMcus s.image.scan0.sc 0 n : Proc Unit).run s = .ok () t →
    t.port.cancel.headD false = true →
    ∃ u, exec .encodeScan s = .next u ∧ u.failedWith .cancelled) ∧
  (∀ (s t : State) (i : Instr), i ∈ [Instr.decodeScan, .encodeScan] → s.status.phase ≠ .failed →
    s.status.phase ≠ .refused → exec i s = .next t → t.status = s.status →
    s.notCancelled s.image.frame.mcuCount = true ∧ t.port.cancel = s.port.cancel.drop s.image.frame.mcuCount) ∧
  (∀ (s : State) (slot : Slot) (payload : List Byte) (n : Nat), s.hostReady slot = true → s.image.plane.wf = true →
    payload.length + 4 ≤ lumaBlocks s.image.frame slot * s.agent.config.k / 8 → n < s.pairsIn slot →
    s.notCancelled n = true → s.port.cancel.getD n false = true →
    let bits := bytesToBits (frameBytes payload)
    let left := (embedRun s.agent.config ((List.range n).map (s.pairOf slot)) bits).2.1
    left ≠ [] → ∃ u context, exec (.embed payload) s = .next u ∧ u.agent.status = .failed .cancelled context ∧
      (left = bits → u.image = s.image ∧ u.status = s.status) ∧
      (left ≠ bits → u.image = Image.reset ∧ u.status = Status.reset)) ∧
  (∀ (s : State) (slot : Slot) (n : Nat), s.hostReady slot = true → n < s.pairsIn slot →
    s.notCancelled n = true → s.port.cancel.getD n false = true →
    let seen := ((s.carriers slot).filter (· < n)).length
    let len := bitsToNat (s.carriedBits slot ((s.carriers slot).take 16))
    (seen < 16 ∨ (8 * len ≤ 2 * (s.pairsIn slot - 16) ∧ seen < 16 + 4 * len)) →
    ∃ u context, exec .extract s = .next u ∧ u.agent.status = .failed .cancelled context ∧ u.image = s.image ∧
      u.status = s.status)

/-- The segment emitters append exactly their segments to `OUT` and change nothing else; a table that a scan component
names and no segment defined is refused (spec R243 to R249). -/
def Obligations.EmittersAppendTheirSegments : Prop :=
  ∀ s : State, s.writer.wcnt = 0 →
    let appended := fun bytes : List Byte =>
      ({ s with writer := { s.writer with out := s.writer.out ++ bytes } } : State).returning .none
    exec .emitSoi s = .next (appended [0xFF, 0xD8]) ∧
    exec .emitPreserved s = .next (appended s.image.preservedBytes) ∧
    exec .emitSof0 s = .next (appended (segmentBytes 0xC0 (sof0Payload s.image.frame))) ∧
    exec .emitDri s = .next (appended s.image.driBytes) ∧
    (s.image.scans ≠ [] →
      exec .emitSos s = .next (appended (segmentBytes 0xDA (sosPayload s.image.frame s.image.scan0))) ∧
      ((usedQuant s.image).all (fun t => s.image.qt[t].valid) = true →
        exec .emitDqt s = .next (appended s.image.dqtBytes)) ∧
      ((usedQuant s.image).all (fun t => s.image.qt[t].valid) = false →
        ∃ t, exec .emitDqt s = .next t ∧ t.refusedWith .missingTable) ∧
      ((usedHuff s.image .dc).all (fun t => (s.image.ht .dc t).valid) = true →
        (usedHuff s.image .ac).all (fun t => (s.image.ht .ac t).valid) = true →
        exec .emitDht s = .next (appended s.image.dhtBytes)) ∧
      ((usedHuff s.image .dc).all (fun t => (s.image.ht .dc t).valid) = false ∨
          (usedHuff s.image .ac).all (fun t => (s.image.ht .ac t).valid) = false →
        ∃ t, exec .emitDht s = .next t ∧ t.refusedWith .missingTable))

/-- `emit_restart` pads the byte under way, appends the restart marker of the number due, moves the number on and clears
the predictors; `finalize` pads and appends EOI (spec R256, R257). -/
def Obligations.RestartAndEoiFollowAFlush : Prop :=
  ∀ s : State, s.writer.ok = true →
    let flushed := s.writer.out ++ entropyBytes (natToBits s.writer.wacc.toNat s.writer.wcnt)
    exec .emitRestart s = .next ({ s with
      writer := { out := flushed ++ [0xFF, 0xD0 + s.work.rstn.zeroExtend 8], wacc := 0, wcnt := 0 }
      work := { s.work with rstn := s.work.rstn + 1, pred := Vector.replicate 4 0 } }.returning .none) ∧
    exec .finalize s = .next ({ s with
      writer := { out := flushed ++ [0xFF, 0xD9], wacc := 0, wcnt := 0 } }.returning .none)

/-! ### The host agent -/

/-- `qround` answers the nearest multiple's number, a tie going to the even one (spec R295). -/
def Obligations.QroundRoundsToNearestEven : Prop :=
  ∀ (s : State) (d : Int) (delta : Nat), 1 ≤ delta →
    exec (.qround d delta) s = .next (s.returning (.int (qround d delta))) ∧
    2 * (d - qround d delta * (delta : Int)).natAbs ≤ delta ∧
    (2 * (d - qround d delta * (delta : Int)).natAbs = delta → qround d delta % 2 = 0)

/-- `embed_pair` and `extract_pair` answer what the modulation rules say, on any legal configuration, and move no cell. The
new difference is a multiple of `δ` and an offset, and the new values lie in the 11-bit range. With `n₁` and `n₂` the values
before clamping: both inside the range, they are the answer; one inside and one outside, the pair is skipped; both outside,
it is skipped unless clamping moves both alike. On a configuration that is not legal neither runs, and nothing is touched
(R290; how the host agent records it is log entry 17). A pair whose cells lie at least `δ` inside the range is never skipped.
Literal extraction recovers, for `δ` of at least 4, the second bit twice (spec R294 to R299, R306). -/
def Obligations.PairsAreModulated : Prop :=
  (∀ (s : State) (a1 a2 : Int) (b1 b2 : Bool), s.agent.config.legal = true →
    exec (.embedPair a1 a2 b1 b2) s = .next { s.returning (.pair (embedPair s.agent.config.delta a1 a2 b1 b2)) with
      agent := { s.agent with status := .ok } } ∧
    exec (.extractPair a1 a2) s = .next { s.returning (.bits [(extractPair s.agent.config.delta a1 a2).1,
      (extractPair s.agent.config.delta a1 a2).2]) with agent := { s.agent with status := .ok } }) ∧
  (∀ (s : State) (a1 a2 : Int) (b1 b2 : Bool), s.agent.config.legal = false →
    exec (.embedPair a1 a2 b1 b2) s = .next s.notRun ∧ exec (.extractPair a1 a2) s = .next s.notRun) ∧
  (∀ (delta : Nat) (a1 a2 c1 c2 : Int) (b1 b2 : Bool), embedPair delta a1 a2 b1 b2 = some (c1, c2) →
    c1 - c2 = qround (a1 - a2) delta * (delta : Int) + (match b1, b2 with
      | false, false => ((delta / 4 : Nat) : Int)
      | false, true => ((3 * delta / 4 : Nat) : Int)
      | true, false => -((3 * delta / 4 : Nat) : Int)
      | true, true => -((delta / 4 : Nat) : Int)) ∧
    -1024 ≤ c1 ∧ c1 ≤ 1023 ∧ -1024 ≤ c2 ∧ c2 ≤ 1023) ∧
  (∀ (delta : Nat) (a1 a2 x : Int) (b1 b2 : Bool),
    x = qround (a1 - a2) delta * (delta : Int) + (match b1, b2 with
      | false, false => ((delta / 4 : Nat) : Int)
      | false, true => ((3 * delta / 4 : Nat) : Int)
      | true, false => -((3 * delta / 4 : Nat) : Int)
      | true, true => -((delta / 4 : Nat) : Int)) - (a1 - a2) →
    let n1 := a1 + (x + 1) / 2
    let n2 := a2 - x / 2
    let inside := fun n : Int => -1024 ≤ n ∧ n ≤ 1023
    let moved := fun n : Int => min (max n (-1024)) 1023 - n
    (inside n1 → inside n2 → embedPair delta a1 a2 b1 b2 = some (n1, n2)) ∧
    (inside n1 → ¬ inside n2 → embedPair delta a1 a2 b1 b2 = none) ∧
    (¬ inside n1 → inside n2 → embedPair delta a1 a2 b1 b2 = none) ∧
    (¬ inside n1 → ¬ inside n2 → moved n1 ≠ moved n2 → embedPair delta a1 a2 b1 b2 = none) ∧
    (¬ inside n1 → ¬ inside n2 → moved n1 = moved n2 →
      embedPair delta a1 a2 b1 b2 = some (n1 + moved n1, n2 + moved n2))) ∧
  (∀ (delta : Nat) (a1 a2 : Int) (b1 b2 : Bool), 1 ≤ delta → -1024 + (delta : Int) ≤ a1 → a1 ≤ 1023 - (delta : Int) →
    -1024 + (delta : Int) ≤ a2 → a2 ≤ 1023 - (delta : Int) → embedPair delta a1 a2 b1 b2 ≠ none) ∧
  (∀ (delta : Nat) (a1 a2 c1 c2 : Int) (b1 b2 : Bool), 4 ≤ delta → embedPair delta a1 a2 b1 b2 = some (c1, c2) →
    extractPair delta c1 c2 = (b2, b2))

/-- `frame` answers the big-endian 32-bit length and the payload, 8 bits for each byte (spec R300). -/
def Obligations.FrameCarriesItsLength : Prop :=
  ∀ (s : State) (payload : List Byte), payload.length < 2 ^ 32 →
    exec (.frame payload) s = .next (s.returning (.bytes (frameBytes payload))) ∧
    (bytesToBits (frameBytes payload)).length = 8 * (payload.length + 4) ∧
    bitsToNat ((bytesToBits (frameBytes payload)).take 32) = payload.length ∧
    (bytesToBits (frameBytes payload)).drop 32 = bytesToBits payload

/-- `embed` modulates one pair for every two bits of the frame, in traversal order, and touches no other cell; a payload
above the capacity is `PayloadTooLarge` before any cell is touched. In general, whatever the configuration and the cells,
it leaves the pairs as `embedRun` makes them: `(0, 0)` pairs are passed over under `skip_zero_pairs`, pairs that clamping
would spoil are passed over. When the pairs run out before the bits it ends in `ClampingExhausted` if clamping skipped one,
else in `PayloadTooLarge`, and the image is discarded if a cell was written. Outside `DECODED`, on a configuration that is
not legal and without the target component it does not run, and touches nothing (spec R290, R291, R293, R297, R298, R301,
R302; how the image is discarded and how the host agent records that it did not run is log entry 17). -/
def Obligations.EmbedModulatesTheFirstPairs : Prop :=
  (∀ (s : State) (payload : List Byte), s.status.phase ≠ .decoded ∨ s.agent.config.legal = false ∨
      s.image.frame.findComp s.agent.config.component = none →
    exec (.embed payload) s = .next s.notRun) ∧
  (∀ (s : State) (t : Slot) (payload : List Byte), s.hostReady t = true → s.image.plane.wf = true →
    s.agent.config.skipZero = false → payload.length + 4 ≤ lumaBlocks s.image.frame t * s.agent.config.k / 8 →
    payload.length < 2 ^ 32 → s.notCancelled (4 * (payload.length + 4)) = true →
    (∀ idx, idx < 4 * (payload.length + 4) →
      -1024 + (s.agent.config.delta : Int) ≤ (s.pairOf t idx).1 ∧ (s.pairOf t idx).1 ≤ 1023 - (s.agent.config.delta : Int) ∧
      -1024 + (s.agent.config.delta : Int) ≤ (s.pairOf t idx).2 ∧
      (s.pairOf t idx).2 ≤ 1023 - (s.agent.config.delta : Int)) →
    let bits := bytesToBits (frameBytes payload)
    ∃ u, exec (.embed payload) s = .next u ∧ u.agent = { s.agent with status := .ok } ∧
      u.image = { s.image with plane := u.image.plane } ∧
      (∀ idx, idx < 4 * (payload.length + 4) →
        some (u.pairOf t idx) = embedPair s.agent.config.delta (s.pairOf t idx).1 (s.pairOf t idx).2
          (bits.getD (2 * idx) false) (bits.getD (2 * idx + 1) false)) ∧
      (∀ a, (∀ idx, idx < 4 * (payload.length + 4) →
          a ≠ (pairCells s.image.frame t s.agent.config.k idx).1 ∧ a ≠ (pairCells s.image.frame t s.agent.config.k idx).2) →
        u.image.plane.read a = s.image.plane.read a) ∧
      u.status = s.status ∧ u.reader = s.reader ∧ u.writer = s.writer ∧ u.work = s.work) ∧
  (∀ (s : State) (t : Slot) (payload : List Byte), s.hostReady t = true →
    lumaBlocks s.image.frame t * s.agent.config.k / 8 < payload.length + 4 →
    ∃ u, exec (.embed payload) s = .next u ∧ u.image = s.image ∧
      ∃ context, u.agent.status = .failed .payloadTooLarge context) ∧
  (∀ (s : State) (t : Slot) (payload : List Byte), s.hostReady t = true → s.image.plane.wf = true →
    payload.length + 4 ≤ lumaBlocks s.image.frame t * s.agent.config.k / 8 → payload.length < 2 ^ 32 →
    s.notCancelled (s.pairsIn t) = true →
    let bits := bytesToBits (frameBytes payload)
    let run := embedRun s.agent.config ((List.range (s.pairsIn t)).map (s.pairOf t)) bits
    (run.2.1 = [] →
      ∃ u, exec (.embed payload) s = .next u ∧ u.agent = { s.agent with status := .ok } ∧
        u.image = { s.image with plane := u.image.plane } ∧ (List.range (s.pairsIn t)).map (u.pairOf t) = run.1 ∧
        (∀ a, (∀ idx, idx < s.pairsIn t →
            a ≠ (pairCells s.image.frame t s.agent.config.k idx).1 ∧ a ≠ (pairCells s.image.frame t s.agent.config.k idx).2) →
          u.image.plane.read a = s.image.plane.read a) ∧
        u.status = s.status ∧ u.reader = s.reader ∧ u.writer = s.writer ∧ u.work = s.work) ∧
    (run.2.1 ≠ [] →
      ∃ u context, exec (.embed payload) s = .next u ∧
        u.agent.status = .failed (if run.2.2 then .clampingExhausted else .payloadTooLarge) context ∧
        (run.2.1 = bits → u.image = s.image ∧ u.status = s.status) ∧
        (run.2.1 ≠ bits → u.image = Image.reset ∧ u.status = Status.reset)))

/-- `extract` answers the bytes that the length prefix and the carrying pairs behind it hold, and changes no cell; under
`skip_zero_pairs` the pairs `(0, 0)` carry nothing. Fewer than 16 carrying pairs are `PayloadTruncated`, a length past the
pairs left is `InvalidLength`, carrying pairs that run out before the length is met are `PayloadTruncated`. Outside
`DECODED`, on a configuration that is not legal and without the target component it does not run, and touches nothing (spec
R290, R291, R298, R299, R303; how the host agent records that it did not run is log entry 17). -/
def Obligations.ExtractReadsTheFramedBytes : Prop :=
  (∀ s : State, s.status.phase ≠ .decoded ∨ s.agent.config.legal = false ∨
      s.image.frame.findComp s.agent.config.component = none →
    exec .extract s = .next s.notRun) ∧
  (∀ (s : State) (t : Slot), s.hostReady t = true → s.notCancelled (s.pairsIn t) = true →
    let carriers := s.carriers t
    (carriers.length < 16 → ∃ u, exec .extract s = .next u ∧ u.image = s.image ∧
      ∃ context, u.agent.status = .failed .payloadTruncated context) ∧
    (16 ≤ carriers.length →
      let len := bitsToNat (s.carriedBits t (carriers.take 16))
      (2 * (s.pairsIn t - 16) < 8 * len →
        ∃ u, exec .extract s = .next u ∧ u.image = s.image ∧
          ∃ context, u.agent.status = .failed .invalidLength context) ∧
      (8 * len ≤ 2 * (s.pairsIn t - 16) → carriers.length < 16 + 4 * len →
        ∃ u, exec .extract s = .next u ∧ u.image = s.image ∧
          ∃ context, u.agent.status = .failed .payloadTruncated context) ∧
      (8 * len ≤ 2 * (s.pairsIn t - 16) → 16 + 4 * len ≤ carriers.length →
        ∃ u bytes, exec .extract s = .next u ∧ u.agent = { s.agent with status := .ok } ∧
          u.port.result = .bytes bytes ∧ bytes.length = len ∧
          bytesToBits bytes = s.carriedBits t ((carriers.drop 16).take (4 * len)) ∧
          u.image = s.image ∧ u.status = s.status ∧ u.reader = s.reader ∧ u.writer = s.writer ∧ u.work = s.work)))

/-! ### Invariants -/

/-- The coefficient memory keeps its canonical form through every step. -/
def Obligations.PlaneStaysCanonical : Prop :=
  ∀ s t : State, s.image.plane.wf = true → step s = .next t → t.image.plane.wf = true

/-- `rp` stays in the buffer, `rcnt`, `wcnt` and `k` in their ranges, and `wacc` holds its low bits only, through every
step (spec R22 to R24, R137). -/
def Obligations.RegistersStayInRange : Prop :=
  ∀ s t : State, s.registersOk = true → step s = .next t → t.registersOk = true

/-- The frame, the scan records, the table files and the captured segments stay legal through every step: what a segment
may not carry is never stored (spec R31 to R34, R36, R162). -/
def Obligations.ImageStaysLegal : Prop :=
  ∀ s t : State, s.image.ok = true → step s = .next t → t.image.ok = true

/-- `PHASE`, `ERR`, `RREASON` and the sequencing flags stay consistent through every step: an error kind only after a
failure, a reason only after a refusal, `DECODED` only with SOI, a frame, a scan and EOI (spec R27 to R29, R207). -/
def Obligations.StatusStaysConsistent : Prop :=
  ∀ s t : State, s.statusOk = true → step s = .next t → t.statusOk = true

/-- The state after reset is legal in all these respects. -/
def Obligations.ResetStateIsLegal : Prop := State.reset.ok = true
end

