-- ==== Sys2Proof/Laws/Memory.lean ====
section
/-! SUPPORT. Laws of the memory of coefficient cells: what is read after a write, and the canonical form. -/

namespace Sys2Proof.Machine

@[simp] theorem Memory.read_nil (a : Nat) : Memory.read [] a = 0 := rfl

@[simp] theorem Memory.wf_nil : Memory.wf [] = true := rfl

/-- A listed address above `low` reads as listed; one at or below `low` is not listed. -/
theorem Memory.read_of_le (m : Memory) : ∀ (low a : Nat), Memory.wfAbove (some low) m = true → a ≤ low →
    Memory.read m a = 0 := by
  induction m with
  | nil => intro low a _ _; rfl
  | cons p m ih =>
    intro low a h ha
    obtain ⟨a', v⟩ := p
    simp only [Memory.wfAbove, Bool.and_eq_true, decide_eq_true_eq] at h
    obtain ⟨⟨h1, _⟩, h3⟩ := h
    rw [Memory.read, if_neg (by omega)]
    exact ih a' a h3 (by omega)

/-- Writing a cell leaves every other cell. -/
theorem Memory.read_write_other (m : Memory) (a b : Nat) (v : Int) (hab : b ≠ a) :
    Memory.read (Memory.write m a v) b = Memory.read m b := by
  induction m with
  | nil =>
    simp only [Memory.write]
    split
    · rfl
    · simp [Memory.read, hab, Memory.unlisted]
  | cons p m ih =>
    obtain ⟨a', v'⟩ := p
    simp only [Memory.write]
    split
    · split
      · rfl
      · rw [Memory.read, if_neg hab]
    · split
      · subst_vars
        split
        · rw [Memory.read, if_neg hab]
        · rw [Memory.read, if_neg hab, Memory.read, if_neg hab]
      · rw [Memory.read, Memory.read, ih]

/-- A cell reads as written, in a memory in canonical form. -/
theorem Memory.read_write_same (m : Memory) (a : Nat) (v : Int) (h : m.wf = true) :
    Memory.read (Memory.write m a v) a = v := by
  have aux : ∀ (m : Memory) (low : Option Nat), Memory.wfAbove low m = true →
      Memory.read (Memory.write m a v) a = v := by
    intro m
    induction m with
    | nil =>
      intro low _
      simp only [Memory.write]
      split
      · simp_all [Memory.unlisted]
      · simp [Memory.read]
    | cons p m ih =>
      intro low h
      obtain ⟨a', v'⟩ := p
      simp only [Memory.wfAbove, Bool.and_eq_true] at h
      obtain ⟨⟨_, _⟩, h3⟩ := h
      simp only [Memory.write]
      split
      · split
        · rename_i hv
          rw [Memory.read, if_neg (by omega), Memory.read_of_le m a' a h3 (by omega), hv]; rfl
        · simp [Memory.read]
      · split
        · subst_vars
          split
          · rename_i hv
            rw [Memory.read_of_le m _ _ h3 (Nat.le_refl _), hv]; rfl
          · simp [Memory.read]
        · rename_i hne
          rw [Memory.read, if_neg hne]
          exact ih (some a') h3
  exact aux m none h

/-- A write above the bound keeps the canonical form above it. -/
theorem Memory.wfAbove_write (m : Memory) (a : Nat) (v : Int) : ∀ low : Option Nat,
    (∀ l, low = some l → l < a) → Memory.wfAbove low m = true → Memory.wfAbove low (Memory.write m a v) = true := by
  induction m with
  | nil =>
    intro low hl _
    simp only [Memory.write]
    split
    · rfl
    · rename_i hv
      cases low <;> simp_all [Memory.wfAbove]
  | cons p m ih =>
    intro low hl h
    obtain ⟨a', v'⟩ := p
    have h0 := h
    simp only [Memory.wfAbove, Bool.and_eq_true, bne_iff_ne, ne_eq] at h
    obtain ⟨⟨h1, h2⟩, h3⟩ := h
    simp only [Memory.write]
    split
    · split
      · exact h0
      · rename_i hv
        cases low <;> simp_all [Memory.wfAbove]
    · split
      · subst_vars
        split
        · cases hm : m with
          | nil => rfl
          | cons q m' =>
            obtain ⟨b, w⟩ := q
            rw [hm] at h3
            simp only [Memory.wfAbove, Bool.and_eq_true, decide_eq_true_eq] at h3 ⊢
            refine ⟨⟨?_, h3.1.2⟩, h3.2⟩
            cases low with
            | none => rfl
            | some l => simpa using Nat.lt_trans (hl l rfl) h3.1.1
        · rename_i hv
          cases low <;> simp_all [Memory.wfAbove]
      · simp only [Memory.wfAbove, Bool.and_eq_true, bne_iff_ne, ne_eq]
        refine ⟨⟨h1, h2⟩, ih (some a') ?_ h3⟩
        intro l hl'
        cases hl'
        omega

/-- A write keeps the canonical form. -/
theorem Memory.wf_write (m : Memory) (a : Nat) (v : Int) (h : m.wf = true) : (m.write a v).wf = true :=
  Memory.wfAbove_write m a v none (by simp) h

/-- Writing consecutive cells keeps the canonical form. -/
theorem Memory.wf_writeFrom (vs : List Int) : ∀ (m : Memory) (a : Nat), m.wf = true → (m.writeFrom a vs).wf = true := by
  induction vs with
  | nil => intro m a h; exact h
  | cons v vs ih => intro m a h; exact ih _ _ (Memory.wf_write m a v h)

/-- Storing a block keeps the canonical form. -/
theorem Memory.wf_writeBlock (m : Memory) (c row col : Nat) (cb : Vector Int 64) (h : m.wf = true) :
    (m.writeBlock c row col cb).wf = true := Memory.wf_writeFrom _ _ _ h

/-- Writing consecutive cells leaves every cell outside them. -/
theorem Memory.read_writeFrom_other (vs : List Int) : ∀ (m : Memory) (a b : Nat),
    (b < a ∨ a + vs.length ≤ b) → (m.writeFrom a vs).read b = m.read b := by
  induction vs with
  | nil => intro m a b _; rfl
  | cons v vs ih =>
    intro m a b h
    simp only [List.length_cons] at h
    rw [Memory.writeFrom, ih _ _ _ (by omega), Memory.read_write_other _ _ _ _ (by omega)]

/-- Consecutive cells read as written. -/
theorem Memory.read_writeFrom (vs : List Int) : ∀ (m : Memory) (a i : Nat) (hi : i < vs.length), m.wf = true →
    (m.writeFrom a vs).read (a + i) = vs[i] := by
  induction vs with
  | nil => intro m a i hi; simp at hi
  | cons v vs ih =>
    intro m a i hi h
    cases i with
    | zero =>
      rw [Memory.writeFrom, Memory.read_writeFrom_other _ _ _ _ (by omega), Nat.add_zero,
        Memory.read_write_same _ _ _ h]
      rfl
    | succ i =>
      have := ih (m.write a v) (a + 1) i (by simpa using hi) (Memory.wf_write _ _ _ h)
      rw [Memory.writeFrom, show a + (i + 1) = a + 1 + i by omega, this]
      rfl

/-- The address of cell `i` of a block. -/
theorem blockAddr_add (c row col i : Nat) : blockAddr c row col + i = cellAddr c row col i := by
  simp [blockAddr, cellAddr]

/-- A stored block's cells read as stored. -/
theorem Memory.read_writeBlock (m : Memory) (c row col : Nat) (cb : Vector Int 64) (i : Fin 64) (h : m.wf = true) :
    (m.writeBlock c row col cb).read (cellAddr c row col i.val) = cb[i] := by
  have := Memory.read_writeFrom cb.toList m (blockAddr c row col) i.val (by simp) h
  rw [blockAddr_add] at this
  simpa [Memory.writeBlock] using this

/-- Storing a block leaves every cell outside it. -/
theorem Memory.read_writeBlock_other (m : Memory) (c row col : Nat) (cb : Vector Int 64) (a : Nat)
    (h : ∀ i : Fin 64, a ≠ cellAddr c row col i.val) : (m.writeBlock c row col cb).read a = m.read a := by
  apply Memory.read_writeFrom_other
  by_contra hc
  simp only [Vector.length_toList, not_or, not_lt, not_le] at hc
  have := h ⟨a - blockAddr c row col, by omega⟩
  rw [← blockAddr_add] at this
  simp only at this
  omega

/-- A block loaded after it was stored is what was stored. -/
theorem Memory.readBlock_writeBlock (m : Memory) (c row col : Nat) (cb : Vector Int 64) (h : m.wf = true) :
    (m.writeBlock c row col cb).readBlock c row col = cb := by
  ext i hi
  have := Memory.read_writeBlock m c row col cb ⟨i, hi⟩ h
  simpa [Memory.readBlock, blockAddr_add] using this

/-- The memory after reset is in canonical form. -/
theorem reset_plane_wf : State.reset.image.plane.wf = true := rfl

end Sys2Proof.Machine
end

