-- ==== Sys2Proof/Laws/State.lean ====
section
/-! SUPPORT. One lemma per field per named update of the state, so that no proof unfolds an update. -/

namespace Sys2Proof.Machine

/-! `returning`. -/

@[simp] theorem State.returning_reader (s : State) (v : Value) :
    (s.returning v).reader = s.reader := rfl

@[simp] theorem State.returning_writer (s : State) (v : Value) :
    (s.returning v).writer = s.writer := rfl

@[simp] theorem State.returning_work (s : State) (v : Value) :
    (s.returning v).work = s.work := rfl

@[simp] theorem State.returning_status (s : State) (v : Value) :
    (s.returning v).status = s.status := rfl

@[simp] theorem State.returning_image (s : State) (v : Value) :
    (s.returning v).image = s.image := rfl

@[simp] theorem State.returning_walk (s : State) (v : Value) :
    (s.returning v).walk = s.walk := rfl

@[simp] theorem State.returning_port_requests (s : State) (v : Value) :
    (s.returning v).port.requests = s.port.requests := rfl

@[simp] theorem State.returning_port_cancel (s : State) (v : Value) :
    (s.returning v).port.cancel = s.port.cancel := rfl

@[simp] theorem State.returning_port_result (s : State) (v : Value) :
    (s.returning v).port.result = v := rfl

@[simp] theorem State.returning_agent (s : State) (v : Value) :
    (s.returning v).agent = s.agent := rfl

/-! `takeError`. -/

@[simp] theorem State.takeError_reader (kind : ErrKind) (pos : Nat) (s : State) :
    (takeError kind pos s).reader = s.reader := rfl

@[simp] theorem State.takeError_writer (kind : ErrKind) (pos : Nat) (s : State) :
    (takeError kind pos s).writer = s.writer.afterStop s.status.phase := rfl

@[simp] theorem State.takeError_work (kind : ErrKind) (pos : Nat) (s : State) :
    (takeError kind pos s).work = s.work := rfl

@[simp] theorem State.takeError_status_phase (kind : ErrKind) (pos : Nat) (s : State) :
    (takeError kind pos s).status.phase = .failed := rfl

@[simp] theorem State.takeError_status_err (kind : ErrKind) (pos : Nat) (s : State) :
    (takeError kind pos s).status.err = kind := rfl

@[simp] theorem State.takeError_status_errpos (kind : ErrKind) (pos : Nat) (s : State) :
    (takeError kind pos s).status.errpos = pos := rfl

@[simp] theorem State.takeError_status_rreason (kind : ErrKind) (pos : Nat) (s : State) :
    (takeError kind pos s).status.rreason = s.status.rreason := rfl

@[simp] theorem State.takeError_image (kind : ErrKind) (pos : Nat) (s : State) :
    (takeError kind pos s).image = s.image := rfl

@[simp] theorem State.takeError_walk_level (kind : ErrKind) (pos : Nat) (s : State) :
    (takeError kind pos s).walk.level = .command := rfl

@[simp] theorem State.takeError_walk_mpos (kind : ErrKind) (pos : Nat) (s : State) :
    (takeError kind pos s).walk.mpos = s.walk.mpos := rfl

@[simp] theorem State.takeError_walk_lpos (kind : ErrKind) (pos : Nat) (s : State) :
    (takeError kind pos s).walk.lpos = s.walk.lpos := rfl

@[simp] theorem State.takeError_walk_fills (kind : ErrKind) (pos : Nat) (s : State) :
    (takeError kind pos s).walk.fills = s.walk.fills := rfl

@[simp] theorem State.takeError_walk_du (kind : ErrKind) (pos : Nat) (s : State) :
    (takeError kind pos s).walk.du = s.walk.du := rfl

@[simp] theorem State.takeError_walk_units (kind : ErrKind) (pos : Nat) (s : State) :
    (takeError kind pos s).walk.units = s.walk.units := rfl

@[simp] theorem State.takeError_port_requests (kind : ErrKind) (pos : Nat) (s : State) :
    (takeError kind pos s).port.requests = s.port.requests := rfl

@[simp] theorem State.takeError_port_cancel (kind : ErrKind) (pos : Nat) (s : State) :
    (takeError kind pos s).port.cancel = s.port.cancel := rfl

@[simp] theorem State.takeError_port_result (kind : ErrKind) (pos : Nat) (s : State) :
    (takeError kind pos s).port.result = .none := rfl

@[simp] theorem State.takeError_agent (kind : ErrKind) (pos : Nat) (s : State) :
    (takeError kind pos s).agent = s.agent := rfl

/-! `takeRefusal`. -/

@[simp] theorem State.takeRefusal_reader (reason : Reason) (s : State) :
    (takeRefusal reason s).reader = s.reader := rfl

@[simp] theorem State.takeRefusal_writer (reason : Reason) (s : State) :
    (takeRefusal reason s).writer = s.writer.afterStop s.status.phase := rfl

@[simp] theorem State.takeRefusal_work (reason : Reason) (s : State) :
    (takeRefusal reason s).work = s.work := rfl

@[simp] theorem State.takeRefusal_status_phase (reason : Reason) (s : State) :
    (takeRefusal reason s).status.phase = .refused := rfl

@[simp] theorem State.takeRefusal_status_err (reason : Reason) (s : State) :
    (takeRefusal reason s).status.err = s.status.err := rfl

@[simp] theorem State.takeRefusal_status_errpos (reason : Reason) (s : State) :
    (takeRefusal reason s).status.errpos = s.status.errpos := rfl

@[simp] theorem State.takeRefusal_status_rreason (reason : Reason) (s : State) :
    (takeRefusal reason s).status.rreason = some reason := rfl

@[simp] theorem State.takeRefusal_image (reason : Reason) (s : State) :
    (takeRefusal reason s).image = s.image := rfl

@[simp] theorem State.takeRefusal_walk_level (reason : Reason) (s : State) :
    (takeRefusal reason s).walk.level = .command := rfl

@[simp] theorem State.takeRefusal_walk_mpos (reason : Reason) (s : State) :
    (takeRefusal reason s).walk.mpos = s.walk.mpos := rfl

@[simp] theorem State.takeRefusal_walk_lpos (reason : Reason) (s : State) :
    (takeRefusal reason s).walk.lpos = s.walk.lpos := rfl

@[simp] theorem State.takeRefusal_walk_fills (reason : Reason) (s : State) :
    (takeRefusal reason s).walk.fills = s.walk.fills := rfl

@[simp] theorem State.takeRefusal_walk_du (reason : Reason) (s : State) :
    (takeRefusal reason s).walk.du = s.walk.du := rfl

@[simp] theorem State.takeRefusal_walk_units (reason : Reason) (s : State) :
    (takeRefusal reason s).walk.units = s.walk.units := rfl

@[simp] theorem State.takeRefusal_port_requests (reason : Reason) (s : State) :
    (takeRefusal reason s).port.requests = s.port.requests := rfl

@[simp] theorem State.takeRefusal_port_cancel (reason : Reason) (s : State) :
    (takeRefusal reason s).port.cancel = s.port.cancel := rfl

@[simp] theorem State.takeRefusal_port_result (reason : Reason) (s : State) :
    (takeRefusal reason s).port.result = .none := rfl

@[simp] theorem State.takeRefusal_agent (reason : Reason) (s : State) :
    (takeRefusal reason s).agent = s.agent := rfl

/-! `resetBlock`. -/

@[simp] theorem State.resetBlock_reader (s : State) :
    (resetBlock s).reader = Reader.reset := rfl

@[simp] theorem State.resetBlock_writer (s : State) :
    (resetBlock s).writer = Writer.reset := rfl

@[simp] theorem State.resetBlock_work (s : State) :
    (resetBlock s).work = Work.reset := rfl

@[simp] theorem State.resetBlock_status (s : State) :
    (resetBlock s).status = Status.reset := rfl

@[simp] theorem State.resetBlock_image (s : State) :
    (resetBlock s).image = Image.reset := rfl

@[simp] theorem State.resetBlock_walk (s : State) :
    (resetBlock s).walk = Sequencer.reset := rfl

@[simp] theorem State.resetBlock_port_requests (s : State) :
    (resetBlock s).port.requests = s.port.requests := rfl

@[simp] theorem State.resetBlock_port_cancel (s : State) :
    (resetBlock s).port.cancel = s.port.cancel := rfl

@[simp] theorem State.resetBlock_port_result (s : State) :
    (resetBlock s).port.result = .none := rfl

@[simp] theorem State.resetBlock_agent (s : State) :
    (resetBlock s).agent = s.agent := rfl

/-! `pastSegment`. -/

@[simp] theorem State.pastSegment_reader_inp (s : State) (payload : List Byte) :
    (s.pastSegment payload).reader.inp = s.reader.inp := rfl

@[simp] theorem State.pastSegment_reader_rp (s : State) (payload : List Byte) :
    (s.pastSegment payload).reader.rp = s.reader.rp + (payload.length + 2) := rfl

@[simp] theorem State.pastSegment_reader_racc (s : State) (payload : List Byte) :
    (s.pastSegment payload).reader.racc = s.reader.racc := rfl

@[simp] theorem State.pastSegment_reader_rcnt (s : State) (payload : List Byte) :
    (s.pastSegment payload).reader.rcnt = s.reader.rcnt := rfl

@[simp] theorem State.pastSegment_writer (s : State) (payload : List Byte) :
    (s.pastSegment payload).writer = s.writer := rfl

@[simp] theorem State.pastSegment_work (s : State) (payload : List Byte) :
    (s.pastSegment payload).work = s.work := rfl

@[simp] theorem State.pastSegment_status (s : State) (payload : List Byte) :
    (s.pastSegment payload).status = s.status := rfl

@[simp] theorem State.pastSegment_image (s : State) (payload : List Byte) :
    (s.pastSegment payload).image = s.image := rfl

@[simp] theorem State.pastSegment_walk_level (s : State) (payload : List Byte) :
    (s.pastSegment payload).walk.level = s.walk.level := rfl

@[simp] theorem State.pastSegment_walk_mpos (s : State) (payload : List Byte) :
    (s.pastSegment payload).walk.mpos = s.walk.mpos := rfl

@[simp] theorem State.pastSegment_walk_lpos (s : State) (payload : List Byte) :
    (s.pastSegment payload).walk.lpos = s.reader.rp := rfl

@[simp] theorem State.pastSegment_walk_fills (s : State) (payload : List Byte) :
    (s.pastSegment payload).walk.fills = s.walk.fills := rfl

@[simp] theorem State.pastSegment_walk_du (s : State) (payload : List Byte) :
    (s.pastSegment payload).walk.du = s.walk.du := rfl

@[simp] theorem State.pastSegment_walk_units (s : State) (payload : List Byte) :
    (s.pastSegment payload).walk.units = s.walk.units := rfl

@[simp] theorem State.pastSegment_port (s : State) (payload : List Byte) :
    (s.pastSegment payload).port = s.port := rfl

@[simp] theorem State.pastSegment_agent (s : State) (payload : List Byte) :
    (s.pastSegment payload).agent = s.agent := rfl

/-! `setQt` and `setHt`. -/

@[simp] theorem Image.setQt_fSoi (im : Image) (t : Slot) (slot : QuantSlot) :
    (im.setQt t slot).fSoi = im.fSoi := rfl

@[simp] theorem Image.setQt_fEoi (im : Image) (t : Slot) (slot : QuantSlot) :
    (im.setQt t slot).fEoi = im.fEoi := rfl

@[simp] theorem Image.setQt_ri (im : Image) (t : Slot) (slot : QuantSlot) :
    (im.setQt t slot).ri = im.ri := rfl

@[simp] theorem Image.setQt_frame (im : Image) (t : Slot) (slot : QuantSlot) :
    (im.setQt t slot).frame = im.frame := rfl

@[simp] theorem Image.setQt_scans (im : Image) (t : Slot) (slot : QuantSlot) :
    (im.setQt t slot).scans = im.scans := rfl

@[simp] theorem Image.setQt_qt (im : Image) (t : Slot) (slot : QuantSlot) :
    (im.setQt t slot).qt = im.qt.set t slot := rfl

@[simp] theorem Image.setQt_htDc (im : Image) (t : Slot) (slot : QuantSlot) :
    (im.setQt t slot).htDc = im.htDc := rfl

@[simp] theorem Image.setQt_htAc (im : Image) (t : Slot) (slot : QuantSlot) :
    (im.setQt t slot).htAc = im.htAc := rfl

@[simp] theorem Image.setQt_plane (im : Image) (t : Slot) (slot : QuantSlot) :
    (im.setQt t slot).plane = im.plane := rfl

@[simp] theorem Image.setQt_seg (im : Image) (t : Slot) (slot : QuantSlot) :
    (im.setQt t slot).seg = im.seg := rfl

@[simp] theorem Image.setHt_fSoi (im : Image) (tc : TableClass) (th : Slot) (slot : HuffSlot) :
    (im.setHt tc th slot).fSoi = im.fSoi := by cases tc <;> rfl

@[simp] theorem Image.setHt_fEoi (im : Image) (tc : TableClass) (th : Slot) (slot : HuffSlot) :
    (im.setHt tc th slot).fEoi = im.fEoi := by cases tc <;> rfl

@[simp] theorem Image.setHt_ri (im : Image) (tc : TableClass) (th : Slot) (slot : HuffSlot) :
    (im.setHt tc th slot).ri = im.ri := by cases tc <;> rfl

@[simp] theorem Image.setHt_frame (im : Image) (tc : TableClass) (th : Slot) (slot : HuffSlot) :
    (im.setHt tc th slot).frame = im.frame := by cases tc <;> rfl

@[simp] theorem Image.setHt_scans (im : Image) (tc : TableClass) (th : Slot) (slot : HuffSlot) :
    (im.setHt tc th slot).scans = im.scans := by cases tc <;> rfl

@[simp] theorem Image.setHt_qt (im : Image) (tc : TableClass) (th : Slot) (slot : HuffSlot) :
    (im.setHt tc th slot).qt = im.qt := by cases tc <;> rfl

@[simp] theorem Image.setHt_plane (im : Image) (tc : TableClass) (th : Slot) (slot : HuffSlot) :
    (im.setHt tc th slot).plane = im.plane := by cases tc <;> rfl

@[simp] theorem Image.setHt_seg (im : Image) (tc : TableClass) (th : Slot) (slot : HuffSlot) :
    (im.setHt tc th slot).seg = im.seg := by cases tc <;> rfl

@[simp] theorem Image.ht_setHt_same (im : Image) (tc : TableClass) (th : Slot) (slot : HuffSlot) :
    (im.setHt tc th slot).ht tc th = slot := by cases tc <;> simp [Image.setHt, Image.ht]

theorem Image.ht_setHt_other (im : Image) (tc tc' : TableClass) (th th' : Slot) (slot : HuffSlot)
    (h : ¬ (tc = tc' ∧ th = th')) : (im.setHt tc th slot).ht tc' th' = im.ht tc' th' := by
  cases tc <;> cases tc' <;> simp_all [Image.setHt, Image.ht, Fin.ext_iff]

@[simp] theorem Image.qt_setQt_same (im : Image) (t : Slot) (slot : QuantSlot) : (im.setQt t slot).qt[t] = slot := by
  simp [Image.setQt]

theorem Image.qt_setQt_other (im : Image) (t t' : Slot) (slot : QuantSlot) (h : t ≠ t') :
    (im.setQt t slot).qt[t'] = im.qt[t'] := by
  simp_all [Image.setQt, Fin.ext_iff]

/-! Writer updates. -/

@[simp] theorem Writer.emitByte_wacc (w : Writer) (b : Byte) : (w.emitByte b).wacc = w.wacc := rfl
@[simp] theorem Writer.emitByte_wcnt (w : Writer) (b : Byte) : (w.emitByte b).wcnt = w.wcnt := rfl
@[simp] theorem Writer.emitByte_out (w : Writer) (b : Byte) :
    (w.emitByte b).out = w.out ++ (if b = 0xFF then [b, 0x00] else [b]) := rfl
@[simp] theorem Writer.afterStop_busyEnc (w : Writer) : w.afterStop .busyEnc = Writer.reset := rfl
theorem Writer.afterStop_other (w : Writer) (p : Phase) (h : p ≠ .busyEnc) : w.afterStop p = w := by
  cases p <;> simp_all [Writer.afterStop]

end Sys2Proof.Machine
end

