-- ==== Sys2Proof/Laws/Ops.lean ====
section
/-! SUPPORT. One lemma per shared operation: what it answers and the state it leaves. -/

namespace Sys2Proof.Machine

@[simp] theorem raise_run {α : Type} (kind : ErrKind) (pos : Nat) (s : State) :
    (raise kind pos : Proc α).run s = .error (.raised kind pos) s := rfl

@[simp] theorem refuse_run {α : Type} (reason : Reason) (s : State) :
    (refuse reason : Proc α).run s = .error (.refused reason) s := rfl

@[simp] theorem Proc.pure_run {α : Type} (a : α) (s : State) : (pure a : Proc α).run s = .ok a s := rfl

@[simp] theorem Proc.get_run (s : State) : (get : Proc State).run s = .ok s s := rfl

/-- Sequencing: a stop of the first part is the stop of the whole (spec R9). -/
theorem Proc.bind_run {α β : Type} (p : Proc α) (f : α → Proc β) (s : State) :
    (p >>= f).run s = match p.run s with | .ok a s' => (f a).run s' | .error e s' => .error e s' := by
  show EStateM.bind p f s = _
  rw [EStateM.bind]
  cases h : p s <;> simp [EStateM.run, h]

/-- Reading the state. -/
theorem Proc.get_bind_run {β : Type} (f : State → Proc β) (s : State) : (get >>= f : Proc β).run s = (f s).run s := rfl

theorem Proc.bind_run_ok {α β : Type} {p : Proc α} {f : α → Proc β} {s s' : State} {a : α} (h : p.run s = .ok a s') :
    (p >>= f).run s = (f a).run s' := by rw [Proc.bind_run, h]

theorem Proc.bind_run_error {α β : Type} {p : Proc α} {f : α → Proc β} {s s' : State} {e : Stop}
    (h : p.run s = .error e s') : (p >>= f).run s = .error e s' := by rw [Proc.bind_run, h]

/-- A sequence ends ok only if both its parts do. -/
theorem Proc.bind_eq_ok {α β : Type} {p : Proc α} {f : α → Proc β} {s t : State} {b : β}
    (h : (p >>= f).run s = .ok b t) : ∃ a s', p.run s = .ok a s' ∧ (f a).run s' = .ok b t := by
  rw [Proc.bind_run] at h
  split at h
  · exact ⟨_, _, ‹_›, h⟩
  · cases h

@[simp] theorem modifyReader_run (f : Reader → Reader) (s : State) :
    (modifyReader f).run s = .ok () { s with reader := f s.reader } := rfl

@[simp] theorem modifyWriter_run (f : Writer → Writer) (s : State) :
    (modifyWriter f).run s = .ok () { s with writer := f s.writer } := rfl

@[simp] theorem modifyWork_run (f : Work → Work) (s : State) :
    (modifyWork f).run s = .ok () { s with work := f s.work } := rfl

@[simp] theorem modifyImage_run (f : Image → Image) (s : State) :
    (modifyImage f).run s = .ok () { s with image := f s.image } := rfl

@[simp] theorem modifyWalk_run (f : Sequencer → Sequencer) (s : State) :
    (modifyWalk f).run s = .ok () { s with walk := f s.walk } := rfl

@[simp] theorem setPhase_run (p : Phase) (l : Level) (s : State) :
    (setPhase p l).run s =
      .ok () { s with status := { s.status with phase := p }, walk := { s.walk with level := l } } := rfl

/-- An instruction whose procedure ends ok answers the state it leaves, with the value returned. -/
theorem runProc_ok {α : Type} (value : α → Value) {p : Proc α} {s s' : State} {a : α} (h : p.run s = .ok a s') :
    runProc value p s = .next (s'.returning (value a)) := by rw [runProc, h]; rfl

/-- An instruction whose procedure stops answers the state after that stop was taken. -/
theorem runProc_error {α : Type} (value : α → Value) {p : Proc α} {s s' : State} {e : Stop}
    (h : p.run s = .error e s') : runProc value p s = .next (takeStop e s') := by rw [runProc, h]; rfl

theorem runUnit_ok {p : Proc Unit} {s s' : State} (h : p.run s = .ok () s') :
    runUnit p s = .next (s'.returning .none) := runProc_ok _ h

theorem runUnit_error {p : Proc Unit} {s s' : State} {e : Stop} (h : p.run s = .error e s') :
    runUnit p s = .next (takeStop e s') := runProc_error _ h

/-- What an instruction that runs a procedure can answer. -/
theorem runProc_cases {α : Type} {value : α → Value} {p : Proc α} {s t : State} (h : runProc value p s = .next t) :
    (∃ a s', p.run s = .ok a s' ∧ t = s'.returning (value a)) ∨ ∃ e s', p.run s = .error e s' ∧ t = takeStop e s' := by
  rw [runProc] at h
  cases hp : p.run s with
  | ok a s' => rw [hp] at h; cases h; exact .inl ⟨a, s', rfl, rfl⟩
  | error e s' => rw [hp] at h; cases h; exact .inr ⟨e, s', rfl, rfl⟩

@[simp] theorem runPure_eq (v : Value) (s : State) : runPure v s = .next (s.returning v) := rfl

@[simp] theorem require_true (e : Config.Excluded) (s : State) : (require true e).run s = .ok () s := rfl

@[simp] theorem require_false (e : Config.Excluded) (s : State) :
    (require false e).run s = .error (.refused (Config.unstatedReason e)) s := rfl

/-- A requirement lets the procedure go on with nothing changed, or refuses it (spec R9). -/
theorem require_run (ok : Bool) (e : Config.Excluded) (s : State) :
    (require ok e).run s = if ok then .ok () s else .error (.refused (Config.unstatedReason e)) s := by cases ok <;> rfl

/-- A procedure with a requirement in front of it: itself where it holds, a refusal with nothing changed elsewhere. -/
theorem require_bind_run {α : Type} (ok : Bool) (e : Config.Excluded) (p : Proc α) (s : State) :
    (require ok e >>= fun _ => p).run s =
      if ok then p.run s else .error (.refused (Config.unstatedReason e)) s := by cases ok <;> rfl

/-- Sampling `CANCEL`: the sample is used up; if it is 1 the command ends with `Cancelled` (spec R206, R260, R328). -/
theorem pollCancel_run (pos : State → Nat) (s : State) :
    (pollCancel pos).run s =
      if s.port.cancel.headD false then
        .error (.raised .cancelled (pos s)) { s with port := { s.port with cancel := s.port.cancel.tail } }
      else .ok () { s with port := { s.port with cancel := s.port.cancel.tail } } := by
  rw [pollCancel, Proc.get_bind_run]
  show EStateM.run (if s.port.cancel.headD false = true then raise ErrKind.cancelled (pos s) else pure ()) _ = _
  split <;> rfl

/-- `fetch_byte`: the next data byte, or `UnexpectedEndOfStream` with nothing changed (spec R131). -/
theorem fetchByte_run (s : State) :
    fetchByte.run s = match s.reader.fetched with
      | some r => .ok () { s with reader := r }
      | none => .error (.raised .unexpectedEndOfStream s.reader.rp) s := by
  rw [fetchByte, Proc.get_bind_run]
  simp only [Reader.fetched]
  cases h : s.reader.byte? s.reader.rp with
  | none => rfl
  | some b =>
    by_cases hb : b = 0xFF
    · subst hb
      cases h' : s.reader.byte? (s.reader.rp + 1) with
      | none => rfl
      | some b' =>
        by_cases hb' : b' = 0x00
        · subst hb'; rfl
        · simp only [ne_eq, not_true, if_false, if_neg hb', Option.some.injEq]
          rfl
    · simp only [ne_eq, hb, not_false_eq_true, if_true]
      rfl

/-- `read_bit`: the next bit, or `UnexpectedEndOfStream` with nothing changed (spec R132). -/
theorem readBit_run (s : State) :
    readBit.run s = match s.reader.nextBit with
      | some (b, r) => .ok b { s with reader := r }
      | none => .error (.raised .unexpectedEndOfStream s.reader.rp) s := by
  rw [readBit, Proc.bind_run, Proc.get_run]
  simp only [Reader.nextBit]
  by_cases h : s.reader.rcnt = 0
  · simp only [h, if_true, Proc.bind_run, fetchByte_run]
    cases s.reader.fetched with
    | none => rfl
    | some r => rfl
  · simp only [h, if_false]
    rfl

/-- The loop of `read_bits`: the bits taken are appended to the value (spec R133). -/
theorem readBitsFrom_run (n : Nat) : ∀ (v : Nat) (s : State),
    (∀ bits r, s.reader.takeBits n = some (bits, r) →
      (readBitsFrom v n).run s =
        .ok (bits.foldl (fun v b => 2 * v + b.toNat) v) { s with reader := r }) ∧
    (s.reader.takeBits n = none → ∃ s', (readBitsFrom v n).run s =
      .error (.raised .unexpectedEndOfStream s'.reader.rp) s' ∧ s' = { s with reader := s'.reader }) := by
  induction n with
  | zero =>
    intro v s
    refine ⟨?_, by simp [Reader.takeBits]⟩
    intro bits r h
    simp only [Reader.takeBits, Option.some.injEq, Prod.mk.injEq] at h
    obtain ⟨rfl, rfl⟩ := h
    rfl
  | succ n ih =>
    intro v s
    simp only [Reader.takeBits, readBitsFrom, Proc.bind_run, readBit_run]
    cases h : s.reader.nextBit with
    | none => exact ⟨by simp, fun _ => ⟨s, rfl, rfl⟩⟩
    | some p =>
      obtain ⟨b, r1⟩ := p
      obtain ⟨ih1, ih2⟩ := ih (2 * v + b.toNat) { s with reader := r1 }
      simp only [Option.map_eq_some_iff, Option.map_eq_none_iff]
      refine ⟨?_, ?_⟩
      · rintro bits r ⟨⟨bs, r2⟩, h1, h2⟩
        cases h2
        rw [ih1 bs r2 h1]
        rfl
      · intro h1
        obtain ⟨s', h2, h3⟩ := ih2 h1
        exact ⟨s', h2, by rw [h3]⟩

/-- `read_bits`: the bits taken as a number, first bit most significant; it stops when there are too few, and refuses
more than 16 (spec R133). -/
theorem readBits_run (n : Nat) (s : State) (hn : n ≤ 16) :
    (∀ bits r, s.reader.takeBits n = some (bits, r) →
      (readBits n).run s = .ok (bitsToNat bits) { s with reader := r }) ∧
    (s.reader.takeBits n = none → ∃ s', (readBits n).run s =
      .error (.raised .unexpectedEndOfStream s'.reader.rp) s' ∧ s' = { s with reader := s'.reader }) := by
  have : readBits n = readBitsFrom 0 n := by simp [readBits, Config.readBitsMax, Nat.not_lt.mpr hn]
  rw [this]
  exact readBitsFrom_run n 0 s

theorem readBits_run_refused (n : Nat) (s : State) (hn : 16 < n) :
    (readBits n).run s = .error (.refused .badOperand) s := by
  simp [readBits, Config.readBitsMax, hn]

/-- `write_bits` on the writer registers, or a refusal (spec R142). -/
theorem writeBits_run (value n : Nat) (s : State) :
    (writeBits value n).run s =
      if 16 < n then .error (.refused .badOperand) s else .ok () { s with writer := s.writer.writeBits value n } := by
  rw [writeBits]
  by_cases h : 16 < n <;> simp [Config.writeBitsMax, h]

/-- `put_raw`: the bytes appended when no bits are gathered, else a refusal with nothing changed (spec R144). -/
theorem putRaw_run (bs : List Byte) (s : State) :
    (putRaw bs).run s =
      if s.writer.wcnt = 0 then .ok () { s with writer := { s.writer with out := s.writer.out ++ bs } }
      else .error (.refused (Config.unstatedReason .bitsGathered)) s := by
  rw [putRaw, Proc.get_bind_run, require_bind_run]
  by_cases h : s.writer.wcnt = 0 <;> simp [h]

/-- After a flush no bits are gathered, so that `put_raw` may follow (spec R143, R144). -/
@[simp] theorem Writer.flush_wcnt (w : Writer) : w.flush.wcnt = 0 := by
  rw [Writer.flush]
  split
  · rfl
  · omega

/-- `emit_preserved` appends every captured segment in order when no bits are gathered (spec R244). -/
theorem forM_putRaw_run (records : List SegRecord) (s : State) (h : s.writer.wcnt = 0) :
    (records.forM fun r => putRaw (segmentBytes r.marker r.payload)).run s = .ok ()
      { s with writer := { s.writer with
        out := s.writer.out ++ records.flatMap fun r => segmentBytes r.marker r.payload } } := by
  induction records generalizing s with
  | nil => simp
  | cons r rs ih =>
    show (putRaw (segmentBytes r.marker r.payload) >>= fun _ =>
      rs.forM fun r => putRaw (segmentBytes r.marker r.payload)).run s = _
    rw [Proc.bind_run_ok (by rw [putRaw_run, if_pos h])]
    refine (ih { s with writer := { s.writer with
      out := s.writer.out ++ segmentBytes r.marker r.payload } } h).trans ?_
    simp [List.append_assoc]

@[simp] theorem flushWithPadding_run (s : State) :
    flushWithPadding.run s = .ok () { s with writer := s.writer.flush } := rfl

@[simp] theorem alignToByte_run (s : State) :
    alignToByte.run s = .ok () { s with reader := { s.reader with rcnt := 0 } } := rfl

@[simp] theorem brAttach_run (p : Nat) (s : State) :
    (brAttach p).run s = .ok () { s with reader := { s.reader with rp := p, racc := 0, rcnt := 0 } } := rfl

/-- `read_segment` over its length field (spec R183): everything it can answer. -/
theorem readSegment_run (s : State) (b0 b1 : Byte) (h0 : s.reader.byte? s.reader.rp = some b0)
    (h1 : s.reader.byte? (s.reader.rp + 1) = some b1) :
    readSegment.run s =
      let s1 : State := { s with walk := { s.walk with lpos := s.reader.rp } }
      if (be16 b0 b1).toNat < 2 then .error (.raised .invalidSegmentLength s.reader.rp) s1
      else if s.reader.inlen < s.reader.rp + (be16 b0 b1).toNat then
        .error (.raised .unexpectedEndOfStream s.reader.rp) s1
      else .ok ((s.reader.inp.drop (s.reader.rp + 2)).take ((be16 b0 b1).toNat - 2))
        { s1 with reader := { s.reader with rp := s.reader.rp + (be16 b0 b1).toNat } } := by
  rw [readSegment, Proc.bind_run, Proc.get_run]
  simp only [Proc.bind_run, modifyWalk_run, h0, h1]
  split
  · rfl
  · split <;> rfl

/-- `read_segment` without a whole length field (spec R183). -/
theorem readSegment_run_short (s : State) (h : s.reader.byte? (s.reader.rp + 1) = none) :
    readSegment.run s = .error (.raised .unexpectedEndOfStream s.reader.rp)
      { s with walk := { s.walk with lpos := s.reader.rp } } := by
  rw [readSegment, Proc.bind_run, Proc.get_run]
  simp only [Proc.bind_run, modifyWalk_run, h]
  cases s.reader.byte? s.reader.rp <;> rfl

/-- Capture: the record is appended, or `read_segment`'s stop is taken (spec R184 to R186). -/
theorem capture_run (m : Byte) (s : State) :
    (capture m).run s = match readSegment.run s with
      | .ok payload t => .ok () { t with image := { t.image with seg := t.image.seg ++ [{ marker := m, payload }] } }
      | .error e t => .error e t := by
  rw [capture, Proc.bind_run]
  cases readSegment.run s <;> rfl

@[simp] theorem misplacedMarker_run {α : Type} (s : State) :
    (misplacedMarker : Proc α).run s = .error (.raised .invalidMarker s.walk.mpos) s := rfl

@[simp] theorem badLength_run {α : Type} (s : State) :
    (badLength : Proc α).run s = .error (.raised .invalidSegmentLength s.walk.lpos) s := rfl

@[simp] theorem unsupportedMode_run (s : State) :
    unsupportedMode.run s = .error (.raised .unsupportedMode s.walk.mpos) s := rfl

@[simp] theorem restartEffect_run (s : State) : restartEffect.run s =
    .ok () { s with work := { s.work with rstn := s.work.rstn + 1, pred := Vector.replicate 4 0 } } := rfl

@[simp] theorem storeBlock_run (u : DataUnit) (s : State) : (storeBlock u).run s =
    .ok () { s with image := { s.image with plane := s.image.plane.writeBlock u.ci u.row u.col s.work.cb } } := rfl

@[simp] theorem loadBlock_run (u : DataUnit) (s : State) : (loadBlock u).run s =
    .ok () { s with work := { s.work with cb := s.image.plane.readBlock u.ci u.row u.col } } := rfl

/-- The checks in front of a coefficient command: the phase, then the address (spec R99, R282). -/
theorem onDecoded_run {α : Type} (inRange : Frame → Bool) (body : Proc α) (s : State) :
    (onDecoded inRange body).run s =
      if s.status.phase ≠ .decoded then .error (.refused .badPhase) s
      else if inRange s.image.frame = false then .error (.refused .badOperand) s
      else body.run s := by
  rw [onDecoded, Proc.get_bind_run]
  split
  · rfl
  · split <;> rfl

/-- The table of a component, or the refusal (spec R281). -/
theorem tableOf_run (c : Nat) (s : State) :
    (tableOf c).run s =
      if s.image.qt[(s.image.frame.comp c).tq].valid then .ok s.image.qt[(s.image.frame.comp c).tq].q s
      else .error (.refused .missingTable) s := by
  rw [tableOf, Proc.get_bind_run]
  split
  · rename_i h
    show EStateM.run (if _ then pure _ else refuse _) s = _
    rw [if_pos h]
    rfl
  · rename_i h
    show EStateM.run (if _ then pure _ else refuse _) s = _
    rw [if_neg h]
    rfl

/-- The code words of a slot: those of the empty table when it is not valid, a refusal when it is over-subscribed. -/
theorem slotCodes_run (slot : HuffSlot) (s : State) :
    (slotCodes slot).run s =
      if slot.valid then
        (match buildTable slot.counts with
         | some cs => .ok (cs.zip slot.values) s
         | none => .error (.refused .huffmanOversubscribed) s)
      else .ok [] s := by
  rw [slotCodes]
  cases slot.valid
  · rfl
  · simp only [if_true, Proc.bind_run, buildTableProc]
    cases buildTable slot.counts <;> rfl

/-- What the host seals under a passphrase, it opens under that passphrase and under no other (spec R307). -/
theorem openPayload_sealPayload (salt : Vector Byte 16) (pw pw' plaintext : List Byte) :
    openPayload (.passphrase pw) (sealPayload (.passphrase pw) salt plaintext) = .ok plaintext ∧
    (pw' ≠ pw →
      openPayload (.passphrase pw') (sealPayload (.passphrase pw) salt plaintext) = .error .authenticationFailed) := by
  have hs : (Vector.ofFn fun i : Fin 16 =>
      (salt.toList ++ Config.scheme.aead salt pw plaintext).getD i.val 0) = salt := by
    ext i hi
    simp [List.getElem?_append_left]
  have hd : (salt.toList ++ Config.scheme.aead salt pw plaintext).drop 16 = Config.scheme.aead salt pw plaintext := by
    simp
  have hl : ¬ (salt.toList ++ Config.scheme.aead salt pw plaintext).length < 16 := by simp
  refine ⟨?_, fun h => ?_⟩ <;> simp only [openPayload, sealPayload, if_neg hl, hs, hd]
  · rw [Config.scheme.opens]
  · rw [Config.scheme.rejects salt pw pw' plaintext h]

/-- Without a passphrase both operations are the identity (spec R307). -/
theorem openPayload_sealPayload_identity (salt : Vector Byte 16) (plaintext : List Byte) :
    openPayload .identity (sealPayload .identity salt plaintext) = .ok plaintext := rfl

end Sys2Proof.Machine
end

