-- ==== Sys2Proof/Laws/PerInstr.lean ====
section
/-! SUPPORT. The per-instruction family: what the decoder answers is well formed and has an encoding, so no ill-formed
term and no procedure of the block ever comes out of it. One lemma for each constructor. -/

namespace Sys2Proof.Laws

/-- If some code decodes to the instruction, the instruction is well formed and can be encoded. -/
def DecodedForm.Statement (i : Instr) : Prop :=
  ∀ c : Code, decode c = .instr i → i.wellFormed = true ∧ (encode i).isSome = true

/-- The same property as a check that can be evaluated. -/
def legalForm (i : Instr) : Bool := i.wellFormed && (encode i).isSome

theorem legalForm_marker : ∀ m : Byte, legalForm (decodeMarkerCode m) = true := by decide +kernel

theorem legalForm_dcSymbol : ∀ sym : Byte, legalForm (decodeDcSymbol sym) = true := by decide +kernel

theorem legalForm_acSymbol : ∀ sym : Byte, legalForm (decodeAcSymbol sym) = true := by decide +kernel

theorem legalForm_command (r : Request) : legalForm (decodeCommand r) = true := by
  unfold decodeCommand
  split <;> first | rfl | skip
  rename_i h1 h2 h3 h4 h5 h6 h7
  have : r.code.toNat = 0 ∨ 8 ≤ r.code.toNat := by
    rcases Nat.lt_or_ge r.code.toNat 8 with h | h
    · interval_cases r.code.toNat <;> simp_all
    · exact .inr h
  simpa [legalForm, Instr.wellFormed, encode] using this

theorem legalForm_of_decode (c : Code) (i : Instr) (h : decode c = .instr i) : legalForm i = true := by
  cases c with
  | command r => cases h; exact legalForm_command r
  | marker bytes =>
    match bytes with
    | [] => cases h
    | b :: rest =>
      simp only [decode, decodeMarker] at h
      split at h
      · match rest with
        | [] => cases h
        | m :: _ => cases h; exact legalForm_marker m
      · cases h
  | dcSymbol sym => cases h; exact legalForm_dcSymbol sym
  | acSymbol sym => cases h; exact legalForm_acSymbol sym
  | dataBytes bytes =>
    match bytes with
    | [] => cases h
    | [b] => cases h
    | b :: b' :: _ =>
      simp only [decode, decodeDataBytes] at h
      split at h
      · cases h; rfl
      · cases h
  | padding bits =>
    simp only [decode, decodePadding] at h
    split at h
    · rename_i hb
      cases h
      simp only [Bool.and_eq_true, decide_eq_true_eq] at hb
      simp [legalForm, Instr.wellFormed, encode, hb.1.2, hb.2]
    · cases h

theorem DecodedForm.all (i : Instr) : DecodedForm.Statement i := by
  intro c h
  simpa [legalForm] using legalForm_of_decode c i h

theorem DecodedForm.reset : DecodedForm.Statement .reset := DecodedForm.all _
theorem DecodedForm.decode (buf : List Byte) : DecodedForm.Statement (.decode buf) := DecodedForm.all _
theorem DecodedForm.encode : DecodedForm.Statement .encode := DecodedForm.all _
theorem DecodedForm.dequant (c row col : Nat) : DecodedForm.Statement (.dequant c row col) := DecodedForm.all _
theorem DecodedForm.quant (c row col : Nat) (d : Vector Int 64) : DecodedForm.Statement (.quant c row col d) := DecodedForm.all _
theorem DecodedForm.rdcoef (c row col i : Nat) : DecodedForm.Statement (.rdcoef c row col i) := DecodedForm.all _
theorem DecodedForm.wrcoef (c row col i : Nat) (v : Int) : DecodedForm.Statement (.wrcoef c row col i v) := DecodedForm.all _
theorem DecodedForm.reservedCommand (code : Byte) : DecodedForm.Statement (.reservedCommand code) := DecodedForm.all _
theorem DecodedForm.soi : DecodedForm.Statement .soi := DecodedForm.all _
theorem DecodedForm.eoi : DecodedForm.Statement .eoi := DecodedForm.all _
theorem DecodedForm.sof0 : DecodedForm.Statement .sof0 := DecodedForm.all _
theorem DecodedForm.sof1 : DecodedForm.Statement .sof1 := DecodedForm.all _
theorem DecodedForm.sof2 : DecodedForm.Statement .sof2 := DecodedForm.all _
theorem DecodedForm.sof3 : DecodedForm.Statement .sof3 := DecodedForm.all _
theorem DecodedForm.sof5 : DecodedForm.Statement .sof5 := DecodedForm.all _
theorem DecodedForm.sof6 : DecodedForm.Statement .sof6 := DecodedForm.all _
theorem DecodedForm.sof7 : DecodedForm.Statement .sof7 := DecodedForm.all _
theorem DecodedForm.sof9 : DecodedForm.Statement .sof9 := DecodedForm.all _
theorem DecodedForm.sof10 : DecodedForm.Statement .sof10 := DecodedForm.all _
theorem DecodedForm.sof11 : DecodedForm.Statement .sof11 := DecodedForm.all _
theorem DecodedForm.sof13 : DecodedForm.Statement .sof13 := DecodedForm.all _
theorem DecodedForm.sof14 : DecodedForm.Statement .sof14 := DecodedForm.all _
theorem DecodedForm.sof15 : DecodedForm.Statement .sof15 := DecodedForm.all _
theorem DecodedForm.jpg : DecodedForm.Statement .jpg := DecodedForm.all _
theorem DecodedForm.dht : DecodedForm.Statement .dht := DecodedForm.all _
theorem DecodedForm.dac : DecodedForm.Statement .dac := DecodedForm.all _
theorem DecodedForm.rst (n : BitVec 3) : DecodedForm.Statement (.rst n) := DecodedForm.all _
theorem DecodedForm.sos : DecodedForm.Statement .sos := DecodedForm.all _
theorem DecodedForm.dqt : DecodedForm.Statement .dqt := DecodedForm.all _
theorem DecodedForm.dri : DecodedForm.Statement .dri := DecodedForm.all _
theorem DecodedForm.app (n : BitVec 4) : DecodedForm.Statement (.app n) := DecodedForm.all _
theorem DecodedForm.com : DecodedForm.Statement .com := DecodedForm.all _
theorem DecodedForm.dnl : DecodedForm.Statement .dnl := DecodedForm.all _
theorem DecodedForm.dhp : DecodedForm.Statement .dhp := DecodedForm.all _
theorem DecodedForm.exp : DecodedForm.Statement .exp := DecodedForm.all _
theorem DecodedForm.jpgLow (n : BitVec 3) : DecodedForm.Statement (.jpgLow n) := DecodedForm.all _
theorem DecodedForm.jpgMid (n : BitVec 2) : DecodedForm.Statement (.jpgMid n) := DecodedForm.all _
theorem DecodedForm.jpgHigh (n : BitVec 1) : DecodedForm.Statement (.jpgHigh n) := DecodedForm.all _
theorem DecodedForm.illegalMarker (m : Byte) : DecodedForm.Statement (.illegalMarker m) := DecodedForm.all _
theorem DecodedForm.notACode : DecodedForm.Statement .notACode := DecodedForm.all _
theorem DecodedForm.fill : DecodedForm.Statement .fill := DecodedForm.all _
theorem DecodedForm.dcSize (s : Fin 12) : DecodedForm.Statement (.dcSize s) := DecodedForm.all _
theorem DecodedForm.illegalDc (sym : Byte) : DecodedForm.Statement (.illegalDc sym) := DecodedForm.all _
theorem DecodedForm.eob : DecodedForm.Statement .eob := DecodedForm.all _
theorem DecodedForm.zrl : DecodedForm.Statement .zrl := DecodedForm.all _
theorem DecodedForm.acRunSize (r s : BitVec 4) : DecodedForm.Statement (.acRunSize r s) := DecodedForm.all _
theorem DecodedForm.stuff : DecodedForm.Statement .stuff := DecodedForm.all _
theorem DecodedForm.pad (n : Nat) : DecodedForm.Statement (.pad n) := DecodedForm.all _
theorem DecodedForm.brAttach (p : Nat) : DecodedForm.Statement (.brAttach p) := DecodedForm.all _
theorem DecodedForm.fetchByte : DecodedForm.Statement .fetchByte := DecodedForm.all _
theorem DecodedForm.readBit : DecodedForm.Statement .readBit := DecodedForm.all _
theorem DecodedForm.readBits (n : Nat) : DecodedForm.Statement (.readBits n) := DecodedForm.all _
theorem DecodedForm.peekMarker : DecodedForm.Statement .peekMarker := DecodedForm.all _
theorem DecodedForm.alignToByte : DecodedForm.Statement .alignToByte := DecodedForm.all _
theorem DecodedForm.readMarker : DecodedForm.Statement .readMarker := DecodedForm.all _
theorem DecodedForm.bwReset : DecodedForm.Statement .bwReset := DecodedForm.all _
theorem DecodedForm.emitByte (b : Byte) : DecodedForm.Statement (.emitByte b) := DecodedForm.all _
theorem DecodedForm.writeBits (value n : Nat) : DecodedForm.Statement (.writeBits value n) := DecodedForm.all _
theorem DecodedForm.flushWithPadding : DecodedForm.Statement .flushWithPadding := DecodedForm.all _
theorem DecodedForm.putRaw (bytes : List Byte) : DecodedForm.Statement (.putRaw bytes) := DecodedForm.all _
theorem DecodedForm.buildTable (counts : Vector Byte 16) (values : List Byte) : DecodedForm.Statement (.buildTable counts values) := DecodedForm.all _
theorem DecodedForm.huffDecode (tc : TableClass) (th : Slot) : DecodedForm.Statement (.huffDecode tc th) := DecodedForm.all _
theorem DecodedForm.huffEncode (tc : TableClass) (th : Slot) (sym : Byte) : DecodedForm.Statement (.huffEncode tc th sym) := DecodedForm.all _
theorem DecodedForm.checkSoi : DecodedForm.Statement .checkSoi := DecodedForm.all _
theorem DecodedForm.walk : DecodedForm.Statement .walk := DecodedForm.all _
theorem DecodedForm.readSegment : DecodedForm.Statement .readSegment := DecodedForm.all _
theorem DecodedForm.decodeScan : DecodedForm.Statement .decodeScan := DecodedForm.all _
theorem DecodedForm.decodeBlock (ci td ta : Slot) : DecodedForm.Statement (.decodeBlock ci td ta) := DecodedForm.all _
theorem DecodedForm.decodeDc (ci td : Slot) : DecodedForm.Statement (.decodeDc ci td) := DecodedForm.all _
theorem DecodedForm.decodeAc (ta : Slot) : DecodedForm.Statement (.decodeAc ta) := DecodedForm.all _
theorem DecodedForm.extend (bits s : Nat) : DecodedForm.Statement (.extend bits s) := DecodedForm.all _
theorem DecodedForm.restart : DecodedForm.Statement .restart := DecodedForm.all _
theorem DecodedForm.emitSoi : DecodedForm.Statement .emitSoi := DecodedForm.all _
theorem DecodedForm.emitPreserved : DecodedForm.Statement .emitPreserved := DecodedForm.all _
theorem DecodedForm.emitDqt : DecodedForm.Statement .emitDqt := DecodedForm.all _
theorem DecodedForm.emitDht : DecodedForm.Statement .emitDht := DecodedForm.all _
theorem DecodedForm.emitSof0 : DecodedForm.Statement .emitSof0 := DecodedForm.all _
theorem DecodedForm.emitDri : DecodedForm.Statement .emitDri := DecodedForm.all _
theorem DecodedForm.emitSos : DecodedForm.Statement .emitSos := DecodedForm.all _
theorem DecodedForm.encodeScan : DecodedForm.Statement .encodeScan := DecodedForm.all _
theorem DecodedForm.encodeBlock (ci td ta : Slot) : DecodedForm.Statement (.encodeBlock ci td ta) := DecodedForm.all _
theorem DecodedForm.encodeDc (ci td : Slot) : DecodedForm.Statement (.encodeDc ci td) := DecodedForm.all _
theorem DecodedForm.size (v : Int) : DecodedForm.Statement (.size v) := DecodedForm.all _
theorem DecodedForm.magbits (v : Int) (s : Nat) : DecodedForm.Statement (.magbits v s) := DecodedForm.all _
theorem DecodedForm.encodeAc (ta : Slot) : DecodedForm.Statement (.encodeAc ta) := DecodedForm.all _
theorem DecodedForm.emitRestart : DecodedForm.Statement .emitRestart := DecodedForm.all _
theorem DecodedForm.finalize : DecodedForm.Statement .finalize := DecodedForm.all _
theorem DecodedForm.rdiv (a : Int) (q : Nat) : DecodedForm.Statement (.rdiv a q) := DecodedForm.all _
theorem DecodedForm.qround (d : Int) (delta : Nat) : DecodedForm.Statement (.qround d delta) := DecodedForm.all _
theorem DecodedForm.embedPair (a1 a2 : Int) (b1 b2 : Bool) : DecodedForm.Statement (.embedPair a1 a2 b1 b2) := DecodedForm.all _
theorem DecodedForm.extractPair (a1 a2 : Int) : DecodedForm.Statement (.extractPair a1 a2) := DecodedForm.all _
theorem DecodedForm.frame (payload : List Byte) : DecodedForm.Statement (.frame payload) := DecodedForm.all _
theorem DecodedForm.embed (payload : List Byte) : DecodedForm.Statement (.embed payload) := DecodedForm.all _
theorem DecodedForm.extract : DecodedForm.Statement .extract := DecodedForm.all _

end Sys2Proof.Laws
end

