-- ==== Sys2Proof/Tests/Slice0.lean ====
section
/-! SUPPORT. Small tests: ill-formed terms refused, every encoding's decoding on words written out from the spec's tables,
one step of each kind on small states with results taken from the spec's vectors (95_test_vectors.md), and for each
statement a state and operands that meet its hypotheses. -/

set_option Elab.async false

namespace Sys2Proof.Tests

open Sys2Proof.Machine

/-! ### Fixtures: the tables and the image of programs P1 and P3 of 95_test_vectors.md -/

/-- An outcome that is a next state with a property. -/
def ok (o : Host.Outcome State Fault Refusal) (f : State → Bool) : Bool :=
  match o with
  | .next t => f t
  | .fault _ | .refused _ => false

/-- Ended in this error. -/
def failed (o : Host.Outcome State Fault Refusal) (k : ErrKind) : Bool :=
  ok o fun t => t.status.phase == .failed && t.status.err == k

/-- Ended in this refusal. -/
def refusedFor (o : Host.Outcome State Fault Refusal) (r : Reason) : Bool :=
  ok o fun t => t.status.phase == .refused && t.status.rreason == some r

/-- Ended in a refusal whose reason the spec leaves open. -/
def refusedOpen (o : Host.Outcome State Fault Refusal) : Bool :=
  ok o fun t => t.status.phase == .refused && t.status.rreason.isSome

/-- Table T-DC of the vectors. -/
def tableDc : HuffSlot :=
  { valid := true, counts := #v[1, 1, 1, 1, 1, 0, 0, 0, 0, 0, 0, 0, 0, 0, 0, 0], values := [0, 1, 2, 3, 8] }

/-- Table T-AC of the vectors. -/
def tableAc : HuffSlot :=
  { valid := true, counts := #v[1, 1, 1, 1, 1, 1, 1, 0, 0, 0, 0, 0, 0, 0, 0, 0],
    values := [0x00, 0x01, 0x11, 0xF0, 0x02, 0x08, 0xE2] }

/-- Table QT0 of the vectors. -/
def tableQ : QuantSlot := { valid := true, pq := 0, q := Vector.replicate 64 0x10 }

/-- One row of blocks, one component. -/
def grayFrame (x : Half) : Frame := { valid := true, p := 8, y := 8, x := x, comps := [{ c := 1, h := 1, v := 1, tq := 0 }] }

def grayScan : Scan := { sc := [{ ci := 0, td := 0, ta := 0 }], ss := 0, se := 63, ah := 0, al := 0 }

/-- A decoded gray image: width, restart interval, cells. -/
def gray (x ri : Half) (plane : Memory) : Image :=
  { Image.reset with
    fSoi := true, fEoi := true, ri := ri, frame := grayFrame x, scans := [grayScan],
    qt := Image.reset.qt.set 0 tableQ, htDc := Image.reset.htDc.set 0 tableDc, htAc := Image.reset.htAc.set 0 tableAc,
    plane := plane }

/-- The cells of P1: DC 3, `CB[1] = 1`, `CB[3] = -1` (V-Q2: products 48, 16, -16 by 16). -/
def imageP1 : Image := gray 8 0 [(0, 3), (1, 1), (3, -1)]

/-- The cells of P3: DC 5, 5, -3 and `CB[1] = 2` in the second block (V-RS1, V-RS7). -/
def imageP3 : Image := gray 24 1 [(cellAddr 0 0 0 0, 5), (cellAddr 0 0 1 0, 5), (cellAddr 0 0 1 1, 2),
  (cellAddr 0 0 2 0, -3)]

/-- A block in `DECODED` with an image. -/
def decoded (im : Image) : State := { State.reset with status := { Status.reset with phase := .decoded }, image := im }

/-- The state with a phase. -/
def phased (p : Phase) : State := { State.reset with status := { Status.reset with phase := p } }

/-- The state with bytes at the read cursor. -/
def reading (bytes : List Byte) : State := { State.reset with reader := { Reader.reset with inp := bytes } }

/-- A reading state with a frame and scan records. -/
def readingIn (im : Image) (bytes : List Byte) : State := { reading bytes with image := im }

/-- A segment's length field and payload. -/
def segment (payload : List Byte) : List Byte := natBytes16 (payload.length + 2) ++ payload

/-- Bytes `0x00 … 0x7C` of P1 to P3: SOI, QT0, T-DC, T-AC. -/
def commonBytes : List Byte :=
  [0xFF, 0xD8, 0xFF, 0xDB, 0x00, 0x43, 0x00] ++ List.replicate 64 0x10 ++
  [0xFF, 0xC4, 0x00, 0x18, 0x00, 1, 1, 1, 1, 1, 0, 0, 0, 0, 0, 0, 0, 0, 0, 0, 0, 0, 1, 2, 3, 8] ++
  [0xFF, 0xC4, 0x00, 0x1A, 0x10, 1, 1, 1, 1, 1, 1, 1, 0, 0, 0, 0, 0, 0, 0, 0, 0, 0x00, 0x01, 0x11, 0xF0, 0x02, 0x08, 0xE2]

/-- P1, 152 bytes. -/
def bytesP1 : List Byte :=
  commonBytes ++ [0xFF, 0xC0, 0x00, 0x0B, 0x08, 0x00, 0x08, 0x00, 0x08, 0x01, 0x01, 0x11, 0x00] ++
  [0xFF, 0xDA, 0x00, 0x08, 0x01, 0x01, 0x00, 0x00, 0x3F, 0x00, 0xDD, 0xC7, 0xFF, 0xD9]

/-- P3, 164 bytes. -/
def bytesP3 : List Byte :=
  commonBytes ++ [0xFF, 0xC0, 0x00, 0x0B, 0x08, 0x00, 0x08, 0x00, 0x18, 0x01, 0x01, 0x11, 0x00] ++
  [0xFF, 0xDD, 0x00, 0x04, 0x00, 0x01, 0xFF, 0xDA, 0x00, 0x08, 0x01, 0x01, 0x00, 0x00, 0x3F, 0x00] ++
  [0xEA, 0xFF, 0xD0, 0xEB, 0xE9, 0xFF, 0xD1, 0xC3, 0xFF, 0xD9]

/-! ### WellFormed refuses each ill-formed form -/

theorem test_wellFormed_refuses :
    [Instr.reservedCommand 7, .reservedCommand 1, .illegalMarker 0, .illegalMarker 0xC0, .illegalDc 11, .acRunSize 0 0,
     .acRunSize 15 0, .pad 0, .pad 8, .buildTable (Vector.replicate 16 0) [1], .extend 1 0, .extend 0 16, .magbits 4 2,
     .rdiv 1 0, .qround 1 0].all (fun i => !i.wellFormed) = true := by decide

theorem test_wellFormed_accepts :
    [Instr.reservedCommand 0, .reservedCommand 8, .illegalMarker 1, .illegalMarker 0xBF, .illegalDc 12, .acRunSize 0 1,
     .acRunSize 1 0, .pad 1, .pad 7, .buildTable #v[1, 0, 0, 0, 0, 0, 0, 0, 0, 0, 0, 0, 0, 0, 0, 0] [1], .extend 0 0,
     .extend 32767 15, .magbits 4 3, .rdiv 1 1, .qround 1 1, .frame [1]].all Instr.wellFormed = true := by decide

/-- The check of `frame`: no list of `2^32` bytes is evaluated. -/
theorem test_wellFormed_frame (payload : List Byte) (h : payload.length = 2 ^ 32) :
    (Instr.frame payload).wellFormed = false := by simp [Instr.wellFormed, h]

/-! ### Decoding: each word written out from the tables of 30_encoding.md -/

/-- The marker words of R82 and what each is. -/
theorem test_decode_markers :
    [((0xD8 : Byte), Instr.soi), (0xD9, .eoi), (0xC0, .sof0), (0xC1, .sof1), (0xC2, .sof2), (0xC3, .sof3), (0xC5, .sof5),
     (0xC6, .sof6), (0xC7, .sof7), (0xC9, .sof9), (0xCA, .sof10), (0xCB, .sof11), (0xCD, .sof13), (0xCE, .sof14),
     (0xCF, .sof15), (0xC8, .jpg), (0xC4, .dht), (0xCC, .dac), (0xD0, .rst 0), (0xD7, .rst 7), (0xDA, .sos), (0xDB, .dqt),
     (0xDD, .dri), (0xE0, .app 0), (0xEF, .app 15), (0xFE, .com), (0xDC, .dnl), (0xDE, .dhp), (0xDF, .exp),
     (0xF0, .jpgLow 0), (0xF7, .jpgLow 7), (0xF8, .jpgMid 0), (0xFB, .jpgMid 3), (0xFC, .jpgHigh 0), (0xFD, .jpgHigh 1),
     (0x01, .illegalMarker 0x01), (0xBF, .illegalMarker 0xBF), (0x00, .notACode), (0xFF, .fill)].all
      (fun e => decode (.marker [0xFF, e.1]) == .instr e.2) = true := by decide

/-- The commands of R99: the code and the operands its row names. -/
theorem test_decode_commands :
    let r := fun code : Byte => ({ code, buf := [7], c := 1, row := 2, col := 3, i := 4, v := -5,
                                   d := Vector.replicate 64 6 } : Request)
    [((1 : Byte), Instr.reset), (2, .decode [7]), (3, .encode), (4, .dequant 1 2 3),
     (5, .quant 1 2 3 (Vector.replicate 64 6)), (6, .rdcoef 1 2 3 4), (7, .wrcoef 1 2 3 4 (-5)), (0, .reservedCommand 0),
     (8, .reservedCommand 8), (0xFF, .reservedCommand 0xFF)].all
      (fun e => decode (.command (r e.1)) == .instr e.2) = true := by decide

/-- The entropy symbols of R93 and R94, STUFF (R91) and PAD (R100). -/
theorem test_decode_symbols :
    decode (.dcSymbol 0) = .instr (.dcSize 0) ∧ decode (.dcSymbol 11) = .instr (.dcSize 11) ∧
    decode (.dcSymbol 12) = .instr (.illegalDc 12) ∧ decode (.dcSymbol 0xF0) = .instr (.illegalDc 0xF0) ∧
    decode (.acSymbol 0x00) = .instr .eob ∧ decode (.acSymbol 0xF0) = .instr .zrl ∧
    decode (.acSymbol 0x10) = .instr (.acRunSize 1 0) ∧ decode (.acSymbol 0xE2) = .instr (.acRunSize 14 2) ∧
    decode (.acSymbol 0x0F) = .instr (.acRunSize 0 15) ∧ decode (.dataBytes [0xFF, 0x00]) = .instr .stuff ∧
    decode (.padding [true]) = .instr (.pad 1) ∧ decode (.padding (List.replicate 7 true)) = .instr (.pad 7) := by decide

/-- What the decoder rejects, by name. -/
theorem test_decode_rejects :
    decode (.marker []) = .rejected .endOfBytes ∧ decode (.marker [0xFF]) = .rejected .endOfBytes ∧
    decode (.marker [0x12, 0x34]) = .rejected .notAMarker ∧ decode (.dataBytes [0xFF]) = .rejected .endOfBytes ∧
    decode (.dataBytes [0xFF, 0xD9]) = .rejected .notAnEscape ∧ decode (.padding []) = .rejected .notPadding ∧
    decode (.padding [true, false]) = .rejected .notPadding ∧
    decode (.padding (List.replicate 8 true)) = .rejected .notPadding := by decide

/-- No code byte is in two rows of the marker table. -/
theorem test_marker_rows_disjoint :
    ∀ m : Byte, (markerRows.filter fun row => m &&& row.mask == row.value).length ≤ 1 := by decide +kernel

/-- The table's words, placed where the next fetch reads them, run (one of each level). -/
theorem test_table_words :
    decodeTableWord 8 0x01 = some .reset ∧ decodeTableWord 8 0xD8 = some .soi ∧ decodeTableWord 8 0xF0 = some .zrl ∧
    decodeTableWord 8 0x00 = some .eob ∧ decodeTableWord 8 0xE5 = some (.app 5) ∧ decodeTableWord 16 1 = none ∧
    ok (step (State.reset.withFetchWord 8 0xD8)) (fun t => t.image.fSoi && t.reader.rp == 2) = true ∧
    ok (step (State.reset.withFetchWord 8 0xF0)) (fun t => t.work.k == 17) = true ∧
    ok (step (State.reset.withFetchWord 8 0xE5)) (fun t => t.status.phase == .failed) = true := by decide +kernel

/-! ### The bitstream unit: V-BR and V-BW -/

/-- The buffer of V-BR1 to V-BR8. -/
def brState : State := reading [0xA5, 0xFF, 0x00, 0x3C, 0xFF, 0xD9]

theorem test_read_bits :
    ok (exec (.readBits 3) brState) (fun t => t.port.result == .nat 5 && t.reader.rcnt == 5 && t.reader.racc == 0xA5) ∧
    ok (exec (.readBits 16) (reading [0x12, 0x34, 0x56])) (fun t => t.port.result == .nat 0x1234 && t.reader.rp == 2) ∧
    ok (exec (.readBits 12) brState) (fun t => t.port.result == .nat 0xA5F && t.reader.rp == 3 && t.reader.rcnt == 4) ∧
    refusedFor (exec (.readBits 17) brState) .badOperand := by decide +kernel

theorem test_read_bit_and_fetch :
    ok (exec .readBit brState) (fun t => t.port.result == .bool true && t.reader.rcnt == 7) ∧
    failed (exec .readBit (reading [0xFF, 0xD9])) .unexpectedEndOfStream ∧
    ok (exec .fetchByte (reading [0xFF, 0x00])) (fun t => t.reader == { inp := [0xFF, 0], rp := 2, racc := 0xFF, rcnt := 8 }) ∧
    failed (exec .fetchByte (reading [0xFF])) .unexpectedEndOfStream := by decide +kernel

theorem test_peek_and_read_marker :
    ok (exec .peekMarker (reading [0xFF, 0xFF, 0xD9])) (fun t => t.port.result == .marker (some 0xFF) && t.reader.rp == 0) ∧
    ok (exec .peekMarker (reading [0xFF, 0x00])) (fun t => t.port.result == .marker none) ∧
    ok (exec .readMarker (reading [0xFF, 0xFF, 0xD9])) (fun t => t.port.result == .byte 0xD9 && t.reader.rp == 3) ∧
    failed (exec .readMarker (reading [0xFF, 0x00])) .invalidMarker ∧
    failed (exec .readMarker (reading [0xFF])) .unexpectedEndOfStream := by decide +kernel

theorem test_attach_and_align :
    ok (exec (.brAttach 6) brState) (fun t => t.reader.rp == 6 && t.reader.rcnt == 0) ∧
    refusedOpen (exec (.brAttach 7) brState) ∧
    ok (exec .alignToByte { brState with reader := { brState.reader with rp := 1, racc := 0xA5, rcnt := 5 } })
      (fun t => t.reader.rcnt == 0 && t.reader.rp == 1 && t.reader.racc == 0xA5) := by decide +kernel

/-- V-BW1, V-BW3, V-BW5, V-BW9, V-BW11. -/
theorem test_write_bits :
    ok (exec (.writeBits 5 3) State.reset) (fun t => t.writer == { out := [], wacc := 5, wcnt := 3 }) ∧
    ok (exec (.writeBits 0x1FF 9) State.reset) (fun t => t.writer == { out := [0xFF, 0x00], wacc := 1, wcnt := 1 }) ∧
    ok (exec (.writeBits 0xABCD 16) State.reset) (fun t => t.writer == { out := [0xAB, 0xCD], wacc := 0, wcnt := 0 }) ∧
    ok (exec (.writeBits 0x1F5 4) State.reset) (fun t => t.writer == { out := [], wacc := 5, wcnt := 4 }) ∧
    refusedFor (exec (.writeBits 0 17) State.reset) .badOperand := by decide +kernel

/-- A state whose writer holds `n` bits. -/
def writing (acc : Byte) (n : Nat) : State := { State.reset with writer := { out := [], wacc := acc, wcnt := n } }

/-- V-BW1, V-BW4, V-BW6, V-BW8. -/
theorem test_flush :
    ok (exec .flushWithPadding (writing 5 3)) (fun t => t.writer == { out := [0xBF], wacc := 0, wcnt := 0 }) ∧
    ok (exec .flushWithPadding (writing 127 7)) (fun t => t.writer == { out := [0xFF, 0x00], wacc := 0, wcnt := 0 }) ∧
    ok (exec .flushWithPadding (writing 0 0)) (fun t => t.writer.out == []) ∧
    ok (exec .finalize (writing 1 1)) (fun t => t.writer.out == [0xFF, 0x00, 0xFF, 0xD9]) := by decide +kernel

theorem test_writer_bytes :
    ok (exec (.emitByte 0xFF) State.reset) (fun t => t.writer.out == [0xFF, 0x00]) ∧
    ok (exec (.emitByte 0xFE) State.reset) (fun t => t.writer.out == [0xFE]) ∧
    ok (exec (.putRaw [0xFF, 0xD9]) State.reset) (fun t => t.writer.out == [0xFF, 0xD9]) ∧
    refusedOpen (exec (.putRaw [0xFF]) (writing 1 1)) ∧
    ok (exec .bwReset (writing 1 1)) (fun t => t.writer == Writer.reset) := by decide +kernel

theorem test_escapes :
    ok (exec .stuff (reading [0xFF, 0x00])) (fun t => t.reader.racc == 0xFF && t.reader.rp == 2 && t.reader.rcnt == 8) ∧
    refusedOpen (exec .stuff (reading [0xFF, 0xD9])) ∧
    ok (exec (.pad 5) { brState with reader := { brState.reader with rcnt := 5 } }) (fun t => t.reader.rcnt == 0) ∧
    refusedOpen (exec (.pad 4) { brState with reader := { brState.reader with rcnt := 5 } }) ∧
    ok (exec .fill (reading [0xFF, 0xFF, 0xD9])) (fun t => t.reader.rp == 1) := by decide +kernel

/-! ### The Huffman unit and the pure procedures: V-HF, V-EX, V-Q1, V-DM -/

/-- V-HF1, V-HF2, V-HF3. -/
theorem test_build_table :
    ok (exec (.buildTable #v[0, 3, 2, 0, 0, 0, 0, 0, 0, 0, 0, 0, 0, 0, 0, 0] [5, 6, 7, 8, 9]) State.reset)
      (fun t => t.port.result == .codes [(0, 2), (1, 2), (2, 2), (6, 3), (7, 3)]) ∧
    ok (exec (.buildTable #v[2, 0, 0, 0, 0, 0, 0, 0, 0, 0, 0, 0, 0, 0, 0, 0] [4, 9]) State.reset)
      (fun t => t.port.result == .codes [(0, 1), (1, 1)]) ∧
    refusedFor (exec (.buildTable #v[1, 3, 0, 0, 0, 0, 0, 0, 0, 0, 0, 0, 0, 0, 0, 0] [1, 2, 3, 4]) State.reset)
      .huffmanOversubscribed := by decide +kernel

/-- V-HF6, V-HF7, V-HF8, V-HF9. -/
theorem test_huff_decode :
    ok (exec (.huffDecode .dc 0) (readingIn imageP1 [0xF6, 0x70])) (fun t => t.port.result == .byte 0x08 && t.reader.rcnt == 3) ∧
    failed (exec (.huffDecode .dc 0) (readingIn imageP1 [0xFF, 0x00, 0xFF, 0x00, 0x12])) .invalidHuffmanCode ∧
    failed (exec (.huffDecode .dc 0) (readingIn imageP1 [0xFF, 0x00, 0xFF])) .unexpectedEndOfStream ∧
    failed (exec (.huffDecode .dc 1) (readingIn imageP1 [0x00, 0x00, 0x55])) .invalidHuffmanCode := by decide +kernel

/-- V-HF11, and the code of ZRL. -/
theorem test_huff_encode :
    failed (exec (.huffEncode .ac 0 0x03) (decoded imageP1)) .invalidHuffmanCode ∧
    ok (exec (.huffEncode .ac 0 0xF0) (decoded imageP1)) (fun t => t.writer == { out := [], wacc := 14, wcnt := 4 }) := by
  decide +kernel

theorem test_magnitudes :
    [((-1 : Int), 0, 1), (1, 1, 1), (-3, 0, 2), (-2, 1, 2), (2, 2, 2), (3, 3, 2), (-2047, 0, 11), (-1024, 1023, 11),
     (1024, 1024, 11), (32767, 32767, 15), (-16384, 16383, 15)].all (fun e =>
      ok (exec (.extend e.2.1 e.2.2) State.reset) (fun t => t.port.result == .int e.1) &&
      ok (exec (.size e.1) State.reset) (fun t => t.port.result == .nat e.2.2) &&
      ok (exec (.magbits e.1 e.2.2) State.reset) (fun t => t.port.result == .nat e.2.1)) = true := by decide +kernel

/-- V-Q1. -/
theorem test_rdiv :
    [((24 : Int), 16, (2 : Int)), (23, 16, 1), (-24, 16, -2), (-23, 16, -1), (8, 16, 1), (7, 16, 0), (-8, 16, -1), (0, 5, 0),
     (3, 2, 2), (-3, 2, -2), (1000, 255, 4), (65535, 65535, 1), (-32768, 3, -10923)].all (fun e =>
      ok (exec (.rdiv e.1 e.2.1) State.reset) (fun t => t.port.result == .int e.2.2)) = true := by decide +kernel

/-- V-DM1, V-DM3, V-DM4, V-DM5b: the pairs written and what is read back. -/
theorem test_embed_pair :
    [((0 : Int), (0 : Int), false, false, some ((1 : Int), (-1 : Int))), (0, 0, false, true, some (4, -3)),
     (0, 0, true, false, some (-3, 4)), (7, -4, false, true, some (10, -7)), (5, 0, false, false, some (4, 2)),
     (15, 0, true, true, some (17, -1)), (1023, -1024, true, false, some (1021, -1022)),
     (1020, 3, false, true, none)].all (fun e =>
      ok (exec (.embedPair e.1 e.2.1 e.2.2.1 e.2.2.2.1) State.reset) (fun t => t.port.result == .pair e.2.2.2.2)) = true := by
  decide +kernel

/-- V-DM2, V-DM1, and the roundings of V-DM4 and V-DM4b. -/
theorem test_extract_pair :
    [((0 : Int), (0 : Int), [false, false]), (5, 0, [false, true]), (-5, 0, [true, false]), (15, 0, [true, false]),
     (25, 0, [false, true]), (4, -3, [true, true]), (-3, 4, [false, false])].all (fun e =>
      ok (exec (.extractPair e.1 e.2.1) State.reset) (fun t => t.port.result == .bits e.2.2)) = true ∧
    ok (exec (.qround 5 10) State.reset) (fun t => t.port.result == .int 0) ∧
    ok (exec (.qround 15 10) State.reset) (fun t => t.port.result == .int 2) := by decide +kernel

/-- The frame of the payload 68 69 (S1). -/
theorem test_frame :
    ok (exec (.frame [0x68, 0x69]) State.reset) (fun t => t.port.result == .bytes [0, 0, 0, 2, 0x68, 0x69]) := by
  decide +kernel

/-! ### Segments and markers: V-MK -/

theorem test_soi_eoi :
    ok (exec .checkSoi (reading [0xFF, 0xD8])) (fun t => t.image.fSoi && t.reader.rp == 2) ∧
    failed (exec .checkSoi (reading [0xFF, 0xD9])) .invalidMarker ∧ failed (exec .checkSoi (reading [0xFF])) .unexpectedEndOfStream ∧
    ok (exec .eoi (decoded imageP1)) (fun t => t.image.fEoi) ∧ failed (exec .eoi State.reset) .invalidMarker := by decide +kernel

theorem test_segments :
    ok (exec .readSegment (reading [0x00, 0x04, 0x68, 0x69])) (fun t => t.port.result == .bytes [0x68, 0x69] && t.reader.rp == 4) ∧
    failed (exec .readSegment (reading [0x00, 0x01])) .invalidSegmentLength ∧
    failed (exec .readSegment (reading [0x00, 0x04, 0x68])) .unexpectedEndOfStream ∧
    ok (exec (.app 0) (reading [0x00, 0x02])) (fun t => t.image.seg == [{ marker := 0xE0, payload := [] }]) ∧
    ok (exec .dnl (reading [0x00, 0x04, 0, 8])) (fun t => t.image.seg == [{ marker := 0xDC, payload := [0, 8] }]) ∧
    ok (exec .com (reading [0x00, 0x03, 0x78])) (fun t => t.image.seg == [{ marker := 0xFE, payload := [0x78] }]) ∧
    ok (exec .dri (reading [0x00, 0x04, 0, 1])) (fun t => t.image.ri == 1) := by decide +kernel

theorem test_tables :
    ok (exec .dqt (reading (segment (0x00 :: List.replicate 64 0x10)))) (fun t => t.image.qt[0] == tableQ) ∧
    ok (exec .dht (reading (segment (0x00 :: (tableDc.counts.toList ++ tableDc.values))))) (fun t => t.image.htDc[0] == tableDc) ∧
    failed (exec .dqt (reading (segment [0x20]))) .unsupportedPrecision ∧
    refusedFor (exec .dht (reading (segment [0x20]))) .tableClass := by decide +kernel

theorem test_sof_and_rejected :
    ok (exec .sof0 (reading (segment [8, 0, 8, 0, 24, 1, 1, 0x11, 0]))) (fun t => t.image.frame == grayFrame 24) ∧
    refusedFor (exec .sof0 (reading (segment [8, 0, 8, 0, 24, 1, 1, 0x51, 0]))) .badFrameParams ∧
    failed (exec .sof2 (reading [])) .unsupportedMode ∧ failed (exec .dac (reading [])) .unsupportedArithmeticCoding ∧
    failed (exec (.rst 3) (reading [])) .invalidMarker := by decide +kernel

/-- V-RS1 to V-RS4 at the restart before MCU 1 of P3. -/
theorem test_restart :
    ok (exec .restart (reading [0xFF, 0xD0, 0xEB])) (fun t => t.reader.rp == 2 && t.work.rstn == 1) ∧
    ok (exec .restart (reading [0xFF, 0xFF, 0xD0])) (fun t => t.reader.rp == 3) ∧
    failed (exec .restart (reading [0xFF, 0xD1])) .missingRestartMarker ∧
    failed (exec .restart (reading [0xEB, 0xE9])) .missingRestartMarker ∧
    ok (exec .emitRestart (writing 1 1)) (fun t => t.writer.out == [0xFF, 0x00, 0xFF, 0xD0] && t.work.rstn == 1) := by decide +kernel

/-! ### Symbols, data units, scans: V-SY, V-SC, V-RS -/

theorem test_dc_symbols :
    ok (exec (.dcSize 2) (reading [0xC0])) (fun t => t.work.pred[0] == 3 && t.work.cb[0] == 3) ∧
    ok (exec (.dcSize 8) (reading [0x00])) (fun t => t.work.cb[0] == -255) ∧
    ok (exec (.decodeDc 0 0) (readingIn imageP1 [0xC0])) (fun t => t.work.cb[0] == -3) ∧
    refusedFor (exec (.illegalDc 12) State.reset) .dcSizeOutOfRange := by decide +kernel

/-- V-SY6, V-SY8, V-SY9, V-SC2. -/
theorem test_ac_symbols :
    ok (exec (.acRunSize 0 1) (reading [0x80])) (fun t => t.work.cb[1] == 1 && t.work.k == 2) ∧
    ok (exec .zrl State.reset) (fun t => t.work.k == 17) ∧
    ok (exec (.decodeAc 0) { readingIn imageP1 [0xFC, 0x80] with work := { Work.reset with k := 49 } })
      (fun t => t.work.cb[63] == -2 && t.work.k == 64) ∧
    refusedFor (exec .zrl { State.reset with work := { Work.reset with k := 49 } }) .acIndexOverflow ∧
    ok (exec .eob State.reset) (fun t => t.port.result == .bool true) := by decide +kernel

/-- P1's block (V-BW10): DD C7. -/
theorem test_blocks :
    ok (exec (.decodeBlock 0 0 0) (readingIn imageP1 [0xDD, 0xC7]))
      (fun t => t.work.cb[0] == 3 && t.work.cb[1] == 1 && t.work.cb[3] == -1 && t.reader.rcnt == 3) ∧
    ok (exec (.encodeBlock 0 0 0) { decoded imageP1 with work := { Work.reset with
        cb := (((Vector.replicate 64 0).set 0 3).set 1 1).set 3 (-1) } })
      (fun t => t.writer == { out := [0xDD], wacc := 0x18, wcnt := 5 } && t.work.pred[0] == 3) := by decide +kernel

/-- P1 and P3, and V-SC8, V-CMD12. -/
theorem test_decode :
    ok (exec (.decode bytesP1) State.reset) (fun t => t.status.phase == .decoded && t.image == imageP1 && t.reader.rp == 152) ∧
    ok (exec (.decode bytesP3) State.reset) (fun t => t.status.phase == .decoded && t.image == imageP3 && t.work.rstn == 2) ∧
    failed (exec (.decode (bytesP1.take 149 ++ [0xFF, 0xD9])) State.reset) .unexpectedEndOfStream ∧
    failed (exec (.decode bytesP3) { State.reset with port := { Port.reset with cancel := [true] } }) .cancelled := by
  decide +kernel

/-- V-EN1, V-EN3, V-EN6, and P3. -/
theorem test_encode :
    ok (exec .encode (decoded imageP1)) (fun t => t.status.phase == .decoded && t.writer.out == bytesP1) ∧
    ok (exec .encode (decoded imageP3)) (fun t => t.writer.out == bytesP3) ∧
    failed (exec .encode (decoded { imageP1 with plane := [(1, 5)] })) .invalidHuffmanCode ∧
    refusedFor (exec .encode (decoded { imageP1 with scans := [grayScan, grayScan] })) .scanCount := by decide +kernel

/-- V-GEO1: the 4:2:0 rows. -/
def frame420 (x y : Half) : Frame :=
  { valid := true, p := 8, y := y, x := x,
    comps := [{ c := 1, h := 2, v := 2, tq := 0 }, { c := 2, h := 1, v := 1, tq := 0 }, { c := 3, h := 1, v := 1, tq := 0 }] }

theorem test_geometry :
    (let f := frame420 20 10
     (f.mcuCols, f.mcuRows) = (2, 1) ∧ (f.bw 0, f.bh 0) = (4, 2) ∧ (f.nw 0, f.nh 0) = (3, 2) ∧ (f.bw 1, f.bh 1) = (2, 1) ∧
      (f.nw 1, f.nh 1) = (2, 1)) ∧
    (let f := frame420 640 480
     (f.mcuCols, f.mcuRows) = (40, 30) ∧ (f.nw 0, f.nh 0) = (80, 60) ∧
      (mcuUnits f [{ ci := 0, td := 0, ta := 0 }] 41).map (fun u => (u.row, u.col)) = [(2, 2), (2, 3), (3, 2), (3, 3)]) := by
  decide +kernel

/-! ### Commands: V-Q, V-CMD -/

/-- V-Q2, V-Q3, V-Q8. -/
theorem test_quant :
    ok (exec (.dequant 0 0 0) (decoded imageP1)) (fun t => t.port.result ==
      .coefs ((((Vector.replicate 64 0).set 0 48).set 1 16).set 3 (-16))) ∧
    ok (exec (.quant 0 0 0 (((((Vector.replicate 64 0).set 0 40).set 1 (-24)).set 2 7).set 3 8)) (decoded imageP1))
      (fun t => t.image.plane == [(0, 3), (1, -2), (3, 1)]) ∧
    refusedFor (exec (.dequant 0 0 1) (decoded imageP1)) .badOperand := by decide +kernel

theorem test_cells :
    ok (exec (.rdcoef 0 0 0 3) (decoded imageP1)) (fun t => t.port.result == .int (-1)) ∧
    ok (exec (.wrcoef 0 0 0 3 0) (decoded imageP1)) (fun t => t.image.plane == [(0, 3), (1, 1)]) ∧
    refusedFor (exec (.wrcoef 0 0 0 64 0) (decoded imageP1)) .badOperand ∧
    refusedFor (exec (.rdcoef 0 0 0 0) State.reset) .badPhase ∧
    ok (exec .reset (phased .failed)) (fun t => t == State.reset) := by decide +kernel

/-- P6: the empty payload on a 32x8 image writes 16 pairs, and is extracted; V-DM9: one byte does not fit. -/
theorem test_embed_extract :
    ok (exec (.embed []) (decoded (gray 32 0 [])))
      (fun t => t.agent.status == .ok && t.image.plane.length == 32 && t.image.plane.read 1 == 1 && t.image.plane.read 2 == -1) ∧
    ok (exec .extract (decoded (gray 32 0 []))) (fun t => t.port.result == .bytes []) ∧
    ok (exec (.embed [7]) (decoded (gray 32 0 []))) (fun t => t.agent.status == .failed .payloadTooLarge 0) := by decide +kernel

/-! ### Witnesses: for each statement with hypotheses, a state and operands that meet them, clause by clause -/

theorem witness_DecodeInvertsEncode :
    (Instr.acRunSize 15 15).wellFormed = true ∧ encode (.acRunSize 15 15) = some (.acSymbol 0xFF) ∧
    (Instr.pad 7).wellFormed = true ∧ encode (.pad 7) = some (.padding (List.replicate 7 true)) := by decide

/-- The state with one command issued. -/
def issued (s : State) (r : Request) : State := { s with port := { s.port with requests := [r] } }

/-- A command in an idle block; and at the command level of a state that says `BUSY_DEC`. -/
theorem witness_StepRunsTheIssuedCommand :
    (issued State.reset (Request.bare 1)).status.phase ≠ .busyDec ∧
    (issued State.reset (Request.bare 1)).port.requests = Request.bare 1 :: [] ∧
    decode (.command (Request.bare 1)) = .instr .reset ∧ exec .reset State.reset = .next (resetBlock State.reset) ∧
    (issued (phased .busyDec) (Request.bare 1)).walk.level = .command := ⟨by decide, rfl, rfl, rfl, rfl⟩

/-- A decode at the marker level, the SOI accepted or not. -/
def atMarker (soi : Bool) (bytes : List Byte) : State :=
  { State.reset with
    reader := { Reader.reset with inp := bytes }
    status := { Status.reset with phase := .busyDec }
    walk := { Sequencer.reset with level := .marker }
    image := { Image.reset with fSoi := soi } }

theorem witness_StepRunsTheMarkerAtTheCursor :
    ((atMarker true [0xFF, 0xC2]).reader.holds [0xFF, 0xC2] = true ∧ decode (.marker [0xFF, 0xC2]) = .instr .sof2 ∧
      ok (exec .sof2 { atMarker true [0xFF, 0xC2] with
        reader := { (atMarker true [0xFF, 0xC2]).reader with rp := 2, rcnt := 0 } }) (fun _ => true) = true) ∧
    ((atMarker true [0xFF, 0xFF]).reader.holds [0xFF, 0xFF] = true ∧
      ok (exec .fill (atMarker true [0xFF, 0xFF])) (fun _ => true) = true) ∧
    ((atMarker false [0xFF, 0xD8]).reader.inp = 0xFF :: 0xD8 :: [] ∧
      ok (exec .soi { atMarker false [0xFF, 0xD8] with
        reader := { (atMarker false [0xFF, 0xD8]).reader with rp := 2, rcnt := 0 } }) (fun _ => true) = true) := by
  decide +kernel

/-- A decode at a symbol level over P1's tables. -/
def atSymbol (l : Level) (bytes : List Byte) : State :=
  { readingIn imageP1 bytes with
    status := { Status.reset with phase := .busyDec }
    walk := { Sequencer.reset with level := l } }

theorem witness_StepRunsTheEntropySymbol :
    ((atSymbol .dc [0xDD]).reader.atStuff = false ∧
      (∃ s1, (huffDecode .dc (atSymbol .dc [0xDD]).walk.du.td).run (atSymbol .dc [0xDD]) = .ok 0x02 s1 ∧
        ok (exec (.dcSize 2) s1) (fun _ => true) = true) ∧ decode (.dcSymbol 0x02) = .instr (.dcSize 2)) ∧
    ((∃ s1, (huffDecode .ac (atSymbol .ac [0x00]).walk.du.ta).run (atSymbol .ac [0x00]) = .ok 0x00 s1 ∧
        ok (exec .eob s1) (fun _ => true) = true) ∧ decode (.acSymbol 0x00) = .instr .eob) ∧
    ((atSymbol .dc [0xFF, 0x00]).reader.atStuff = true ∧
      ok (exec .stuff (atSymbol .dc [0xFF, 0x00])) (fun _ => true) = true) ∧
    (let s := { atSymbol .mcu [] with work := { Work.reset with mcu := 1 }, reader := { Reader.reset with rcnt := 7 } }
     s.image.frame.mcuCount ≤ s.work.mcu ∧ s.reader.rcnt ≤ 7 ∧ ok (exec (.pad 7) s) (fun _ => true) = true) :=
  ⟨⟨by decide +kernel, ⟨_, rfl, by decide +kernel⟩, rfl⟩, ⟨⟨_, rfl, by decide +kernel⟩, rfl⟩, by decide +kernel, by decide +kernel⟩

/-- A state with bits gathered in the writer in which every segment emitter has something to write. -/
def gathered : State := { writing 1 1 with image := { imageP3 with seg := [{ marker := 0xFE, payload := [7] }] } }

/-- The values of a procedure that runs on operands whose result the spec does not state. -/
theorem witness_OperandsOutsideTheDomainAreRefusedOrFree :
    (brState.reader.inlen < 7 ∧ refusedOpen (exec (.brAttach 7) brState) = true) ∧
    (gathered.writer.wcnt ≠ 0 ∧ gathered.image.seg ≠ [] ∧ gathered.image.ri ≠ 0 ∧ gathered.image.scans ≠ [] ∧
      usedQuant gathered.image ≠ [] ∧ usedHuff gathered.image .dc ≠ [] ∧ usedHuff gathered.image .ac ≠ [] ∧
      [Instr.putRaw [], .emitSoi, .emitSof0, .emitPreserved, .emitDri, .emitSos, .emitDqt, .emitDht].all
        (fun i => refusedOpen (exec i gathered)) = true) ∧
    (reading [0xFF]).reader.holds [0xFF, 0x00] = false ∧
    (let s := { writing 1 1 with status := { Status.reset with phase := .busyEnc } }
     s.status.phase = .busyEnc ∧ ¬ (1 ≤ 6 ∧ 6 ≤ 7 ∧ s.writer.wcnt + 6 = 8) ∧ refusedOpen (exec (.pad 6) s) = true) ∧
    (State.reset.status.phase ≠ .busyEnc ∧ ¬ (1 ≤ 0 ∧ 0 ≤ 7 ∧ State.reset.reader.rcnt = 0)) ∧
    (State.reset.image.scans = [] ∧ [Instr.emitSos, .emitDqt, .emitDht, .encodeScan, .decodeScan].all
        (fun i => refusedOpen (exec i State.reset)) = true) ∧
    (([] : List Byte).length ≠ totalOf tableDc.counts ∧ buildTable tableDc.counts ≠ none) ∧
    ([1, 2] : List Byte).length ≠ totalOf #v[3, 0, 0, 0, 0, 0, 0, 0, 0, 0, 0, 0, 0, 0, 0, 0] ∧
    buildTable #v[3, 0, 0, 0, 0, 0, 0, 0, 0, 0, 0, 0, 0, 0, 0, 0] = none ∧
    ¬ (16 ≤ 15 ∧ 0 < 2 ^ 16) ∧ ¬ (0 ≤ 15 ∧ 1 < 2 ^ 0) ∧ 0 ≠ size 1 ∧
    2 ^ 32 ≤ (List.replicate (2 ^ 32) (0 : Byte)).length :=
  ⟨by decide +kernel, by decide +kernel, by decide, by decide +kernel, by decide, by decide +kernel, by decide +kernel,
    by decide +kernel, by decide +kernel, by decide, by decide, by decide,
    by rw [List.length_replicate]⟩

theorem witness_FailureIsStickyUntilReset :
    (phased .failed).status.phase = .failed ∧ (phased .refused).status.phase = .refused ∧
    2 ≤ (2 : Byte).toNat ∧ (7 : Byte).toNat ≤ 7 ∧
    ok (step (issued (phased .failed) (Request.bare 1))) (fun t => t.status.phase == .idle) = true ∧
    ok (step (phased .refused)) (fun t => t.status.phase == .refused) = true := by decide +kernel

theorem witness_CommandsAreRefusedOutOfPhase :
    State.reset.status.phase ≠ .decoded ∧ (phased .failed).status.phase ≠ .decoded ∧
    (phased .failed).status.phase ≠ .idle ∧ (decoded imageP1).status.phase = .decoded ∧
    ({ imageP1 with scans := [grayScan, grayScan] } : Image).nscan ≠ 1 := by decide

theorem witness_DecodeForgetsTheEarlierImage :
    State.reset.status.phase = .idle ∧ (decoded imageP1).status.phase = .decoded := by decide

theorem witness_CoefficientCommandsReachOneCell :
    (grayFrame 16).hasCell 0 0 0 63 = true ∧ (grayFrame 16).hasCell 0 0 1 0 = true ∧
    cellAddr 0 0 0 63 = cellAddr 0 0 0 63 ∧ (decoded imageP1).status.phase = .decoded ∧
    (decoded imageP1).image.plane.wf = true ∧
    (0 < (decoded imageP1).image.frame.nf ∧ 0 < (decoded imageP1).image.frame.bh 0 ∧ 0 < (decoded imageP1).image.frame.bw 0) ∧
    ¬ (64 ≤ 63) ∧ ¬ (1 < (decoded imageP1).image.frame.bw 0) := by decide +kernel

/-- P1 with the component's table undefined (V-MK33). -/
def noTable : Image := { imageP1 with qt := Image.reset.qt }

/-- P1 with a zero entry in the table (V-Q6). -/
def zeroEntry : Image := { imageP1 with qt := Image.reset.qt.set 0 { tableQ with q := tableQ.q.set 63 0 } }

theorem witness_DequantAnswersTheProducts :
    ((decoded imageP1).status.phase = .decoded ∧ 0 < imageP1.frame.nf ∧ 0 < imageP1.frame.bh 0 ∧ 0 < imageP1.frame.bw 0) ∧
    imageP1.qt[(imageP1.frame.comp 0).tq].valid = true ∧ noTable.qt[(noTable.frame.comp 0).tq].valid = false ∧
    ¬ (1 < imageP1.frame.bw 0) ∧ State.reset.status.phase ≠ .decoded := by decide +kernel

theorem witness_QuantStoresTheNearestQuotients :
    ((decoded imageP1).status.phase = .decoded ∧ imageP1.plane.wf = true ∧ 0 < imageP1.frame.nf ∧
      0 < imageP1.frame.bh 0 ∧ 0 < imageP1.frame.bw 0) ∧
    imageP1.qt[(imageP1.frame.comp 0).tq].valid = true ∧
    (∀ i : Fin 64, imageP1.qt[(imageP1.frame.comp 0).tq].q[i] ≠ 0) ∧
    (∃ i : Fin 64, zeroEntry.qt[(zeroEntry.frame.comp 0).tq].q[i] = 0) ∧
    noTable.qt[(noTable.frame.comp 0).tq].valid = false ∧ ¬ (1 < imageP1.frame.bw 0) ∧ 0 < 1 := by decide +kernel

/-- P1 as DEQUANT and as QUANT leave it. -/
theorem witness_QuantInvertsDequant :
    (∃ s1 d t, exec (.dequant 0 0 0) (decoded imageP1) = .next s1 ∧ s1.port.result = .coefs d ∧
      exec (.quant 0 0 0 d) s1 = .next t) ∧
    (∃ s1 t e, exec (.quant 0 0 0 (Vector.replicate 64 7)) (decoded imageP1) = .next s1 ∧
      exec (.dequant 0 0 0) s1 = .next t ∧ t.port.result = .coefs e) :=
  ⟨⟨_, _, _, rfl, rfl, rfl⟩, ⟨_, _, _, rfl, rfl, rfl⟩⟩

theorem witness_SoiOpensTheStream :
    (reading [0xFF, 0xD8]).reader.inp = 0xFF :: 0xD8 :: [] ∧ (reading [0xFF]).reader.inlen < 2 ∧
    (2 ≤ (reading [0xFF, 0xD9]).reader.inlen ∧ ∀ rest, (reading [0xFF, 0xD9]).reader.inp ≠ 0xFF :: 0xD8 :: rest) :=
  ⟨rfl, by decide, by decide, by intro rest h; cases h⟩

theorem witness_EoiNeedsAScan : (decoded imageP1).image.scans ≠ [] ∧ State.reset.image.scans = [] := by decide

theorem witness_Sof0RecordsTheFrame :
    let f : Frame := { valid := true, p := 8, y := 1, x := 65535, comps := [{ c := 255, h := 4, v := 1, tq := 3 }] }
    (reading (segment (sof0Payload f))).image.frame.valid = false ∧ f.valid = true ∧ f.ok = true ∧
    (reading (segment (sof0Payload f))).reader.holdsSegment (sof0Payload f) = true := by decide +kernel

theorem witness_RejectedMarkersAreReported : Instr.sof1 ∈ [Instr.sof1, .sof15, .jpg] := by decide

theorem witness_ReadSegmentAnswersThePayload :
    (reading (segment [1, 2])).reader.holdsSegment [1, 2] = true ∧ (reading (segment [])).reader.holdsSegment [] = true ∧
    (reading [0]).reader.inlen < (reading [0]).reader.rp + 2 ∧
    ((reading [0, 1]).reader.holds [0, 1] = true ∧ (be16 0 1).toNat < 2) ∧
    ((reading [0, 3]).reader.holds [0, 3] = true ∧ 2 ≤ (be16 0 3).toNat ∧
      (reading [0, 3]).reader.inlen < (reading [0, 3]).reader.rp + (be16 0 3).toNat) := by decide +kernel

theorem witness_CapturedSegmentsAreKept :
    (reading (segment [7])).reader.holdsSegment [7] = true ∧
    failed (exec .readSegment (reading [0])) .unexpectedEndOfStream = true ∧
    (Instr.jpgHigh 1, (0xFD : Byte)) = (Instr.jpgHigh 1, 0xFC + (1 : BitVec 1).zeroExtend 8) := by decide +kernel

theorem witness_DqtStoresItsTables :
    let tables : List (Slot × QuantSlot) := [(3, tableQ), (3, { tableQ with pq := 1 })]
    (∀ e ∈ tables, e.2.valid = true ∧ e.2.ok = true) ∧
    (reading (segment (tables.flatMap fun (e : Slot × QuantSlot) => dqtPayload e.1 e.2))).reader.holdsSegment
      (tables.flatMap fun (e : Slot × QuantSlot) => dqtPayload e.1 e.2) = true := by decide +kernel

theorem witness_DhtStoresItsTables :
    let tables : List (TableClass × Slot × HuffSlot) := [(.dc, 0, tableDc), (.ac, 3, tableAc)]
    (∀ e ∈ tables, e.2.2.valid = true ∧ e.2.2.ok = true) ∧
    (reading (segment (tables.flatMap fun (e : TableClass × Slot × HuffSlot) => dhtPayload e.1 e.2.1 e.2.2))).reader.holdsSegment
      (tables.flatMap fun (e : TableClass × Slot × HuffSlot) => dhtPayload e.1 e.2.1 e.2.2) = true := by decide +kernel

/-- A SOF0 payload of size 8x8 with these component bytes. -/
def sofPayload (p nf : Byte) (y x : Half) (comps : List Byte) : List Byte := [p] ++ be16Bytes y ++ be16Bytes x ++ [nf] ++ comps

/-- A frame of two components with the ids 1 and 2. -/
def twoComps : Image :=
  { imageP1 with frame := { grayFrame 8 with comps := [{ c := 1, h := 1, v := 1, tq := 0 }, { c := 2, h := 1, v := 1, tq := 0 }] } }

/-- Each defect, in the first table or component and in a later one, ends as the rules say. -/
theorem test_segment_defects :
    (let good := dqtPayload 0 tableQ
     failed (exec .dqt (reading (segment (good ++ [0x20])))) .unsupportedPrecision ∧
      refusedFor (exec .dqt (reading (segment (good ++ [0x14])))) .tableIdOutOfRange ∧
      failed (exec .dqt (reading (segment (good ++ [0x13, 0])))) .invalidSegmentLength) ∧
    (let good := dhtPayload .dc 0 tableDc
     refusedFor (exec .dht (reading (segment (good ++ [0x20])))) .tableClass ∧
      refusedFor (exec .dht (reading (segment (good ++ [0x14])))) .tableIdOutOfRange ∧
      failed (exec .dht (reading (segment (good ++ [0x13, 1])))) .invalidSegmentLength ∧
      failed (exec .dht (reading (segment (good ++ [0x10] ++ tableAc.counts.toList ++ [0])))) .invalidSegmentLength ∧
      refusedFor (exec .dht (reading (segment (good ++ [0x10, 3] ++ List.replicate 15 0 ++ [1, 2, 3])))) .huffmanOversubscribed) ∧
    (let sof := fun p nf y x comps => exec .sof0 (reading (segment (sofPayload p nf y x comps)))
     failed (sof 8 2 8 8 [1, 0x11, 0]) .invalidSegmentLength ∧ failed (sof 12 1 8 8 [1, 0x11, 0]) .unsupportedPrecision ∧
      refusedFor (sof 8 0 8 8 []) .badFrameParams ∧ refusedFor (sof 8 1 0 8 [1, 0x11, 0]) .badFrameParams ∧
      refusedFor (sof 8 1 8 0 [1, 0x11, 0]) .badFrameParams ∧ refusedFor (sof 8 2 8 8 [1, 0x11, 0, 2, 0x15, 0]) .badFrameParams ∧
      refusedFor (sof 8 2 8 8 [1, 0x11, 0, 1, 0x11, 4]) .tableIdOutOfRange ∧
      refusedFor (sof 8 2 8 8 [1, 0x11, 0, 1, 0x11, 3]) .badFrameParams) ∧
    (let sos := fun payload => exec .sos (readingIn twoComps (segment payload))
     failed (sos []) .invalidSegmentLength ∧ failed (sos [1, 1, 0, 0, 63]) .invalidSegmentLength ∧
      refusedFor (sos [0, 0, 63, 0]) .badScanParams ∧ refusedFor (sos [2, 1, 0, 9, 0, 0, 63, 0]) .badScanParams ∧
      refusedFor (sos [2, 1, 0, 1, 0x40, 0, 63, 0]) .tableIdOutOfRange ∧
      refusedFor (sos [2, 1, 0, 1, 0, 0, 63, 0]) .badScanParams ∧ refusedFor (sos [1, 1, 0, 0, 62, 0]) .badScanParams) := by
  decide +kernel

/-- The hypotheses of each clause, on the data of `test_segment_defects`. -/
theorem witness_SegmentDefectsAreReported :
    (reading (segment [])).reader.holdsSegment [] = true ∧
    (let good : List (Slot × QuantSlot) := [(0, tableQ)]
     let bytes := good.flatMap fun (e : Slot × QuantSlot) => dqtPayload e.1 e.2
     (∀ e ∈ good, e.2.valid = true ∧ e.2.ok = true) ∧
      (reading (segment (bytes ++ 0x13 :: [0]))).reader.holdsSegment (bytes ++ 0x13 :: [0]) = true ∧
      1 < (hiNibble 0x20).toNat ∧ ((hiNibble 0x14).toNat ≤ 1 ∧ 4 ≤ (loNibble 0x14).toNat) ∧
      ((hiNibble 0x13).toNat ≤ 1 ∧ (loNibble 0x13).toNat < 4 ∧ [(0 : Byte)].length < 64 * ((hiNibble 0x13).toNat + 1))) ∧
    (let good : List (TableClass × Slot × HuffSlot) := [(.dc, 0, tableDc)]
     let bytes := good.flatMap fun (e : TableClass × Slot × HuffSlot) => dhtPayload e.1 e.2.1 e.2.2
     let full := (#v[3, 0, 0, 0, 0, 0, 0, 0, 0, 0, 0, 0, 0, 0, 0, 0] : Vector Byte 16)
     (∀ e ∈ good, e.2.2.valid = true ∧ e.2.2.ok = true) ∧
      (reading (segment (bytes ++ 0x13 :: (full.toList ++ [1, 2, 3])))).reader.holdsSegment
        (bytes ++ 0x13 :: (full.toList ++ [1, 2, 3])) = true ∧
      [(1 : Byte)].length < 16 ∧ [(0 : Byte)].length < totalOf tableAc.counts ∧ totalOf full ≤ [(1 : Byte), 2, 3].length ∧
      buildTable full = none) ∧
    (let comps := fun tq : Byte => [1, 0x11, 0] ++ 1 :: 0x11 :: tq :: []
     (reading (segment (sofPayload 8 2 8 8 (comps 4)))).reader.holdsSegment (sofPayload 8 2 8 8 (comps 4)) = true ∧
      (decoded imageP1).image.frame.valid = true ∧ (reading []).image.frame.valid = false ∧ [(8 : Byte)].length < 6 ∧
      [(1 : Byte), 0x11, 0].length ≠ 3 * (2 : Byte).toNat ∧ (comps 4).length = 3 * (2 : Byte).toNat ∧ (12 : Byte) ≠ 8 ∧
      (0 : Byte).toNat < 1 ∧ 4 < (5 : Byte).toNat ∧
      (let good : List Comp := [{ c := 1, h := 1, v := 1, tq := 0 }]
       comps 4 = (good.flatMap fun d => [d.c, nibbles d.h d.v, slotByte d.tq]) ++ 1 :: 0x11 :: 4 :: [] ∧
        (∀ d ∈ good, d.ok = true) ∧ (good.map Comp.c).Nodup ∧ (1 : Byte) ∈ good.map Comp.c) ∧
      4 < (hiNibble 0x51).toNat ∧ (loNibble 0x10).toNat < 1 ∧ 4 ≤ (4 : Byte).toNat) ∧
    (let f := twoComps.frame
     let good : List ScanComp := [{ ci := 0, td := 0, ta := 0 }]
     let bytes := good.flatMap fun d => [(f.comp d.ci).c, nibbles (slotNibble d.td) (slotNibble d.ta)]
     f.valid = true ∧ f.ok = true ∧
      (readingIn twoComps (segment (2 :: (bytes ++ 1 :: 0x40 :: [0, 63, 0])))).reader.holdsSegment
        (2 :: (bytes ++ 1 :: 0x40 :: [0, 63, 0])) = true ∧
      (∀ d ∈ good, d.ci.val < f.nf) ∧ (good.map ScanComp.ci).Nodup ∧ good.length < (2 : Byte).toNat ∧
      (bytes ++ 1 :: 0x40 :: [0, 63, 0]).length = 3 + 2 * (2 : Byte).toNat ∧
      (9 : Byte) ∉ f.comps.map Comp.c ∧ (1 : Byte) ∈ f.comps.map Comp.c ∧ 4 ≤ (hiNibble 0x40).toNat ∧
      ¬ (4 ≤ (hiNibble 0).toNat ∨ 4 ≤ (loNibble 0).toNat) ∧ (1 : Byte) ∈ good.map (fun d => (f.comp d.ci).c) ∧
      good.length = (1 : Byte).toNat ∧ (bytes ++ [0, 62, 0]).length = 3 + 2 * (1 : Byte).toNat ∧
      ¬ ((0 : Byte) = 0 ∧ (62 : Byte) = 63 ∧ (0 : Byte) = 0)) := by decide +kernel

theorem witness_DriRecordsTheInterval :
    (reading (segment (be16Bytes 0))).reader.holdsSegment (be16Bytes 0) = true ∧
    (reading (segment [1, 2, 3])).reader.holdsSegment [1, 2, 3] = true ∧ [(1 : Byte), 2, 3].length ≠ 2 := by decide +kernel

/-- `restart` with the expected marker, with one fill byte in front, and with another marker. -/
theorem witness_RestartsAndSoiKeepTheirPlace :
    (let s := { reading [0xFF, 0xD8] with reader := { (reading [0xFF, 0xD8]).reader with rp := 2 } }
     s.image.fSoi = false ∧ s.reader.rp = 2) ∧ (decoded imageP1).image.fSoi = true ∧
    (atSymbol .mcu []).walk.level = .mcu ∧ (0 : BitVec 3) = (atSymbol .mcu []).work.rstn ∧
    (7 : BitVec 3) ≠ (atSymbol .mcu []).work.rstn ∧ State.reset.walk.level ≠ .mcu ∧
    (reading [0xFF, 0xFF, 0xD0]).reader.holds (List.replicate (1 + 1) 0xFF ++
      [0xD0 + (reading [0xFF, 0xFF, 0xD0]).work.rstn.zeroExtend 8]) = true ∧
    (∀ fills, (reading [0xFF]).reader.holds (List.replicate (fills + 1) 0xFF ++
      [0xD0 + (reading [0xFF]).work.rstn.zeroExtend 8]) = false) :=
  ⟨⟨rfl, rfl⟩, rfl, rfl, rfl, by decide, by decide, by decide +kernel, fun fills => by cases fills <;> rfl⟩

theorem witness_WalkEndsAtEoi :
    let s := { readingIn imageP1 [0xFF, 0xFE, 0x00, 0x03, 0x78, 0xFF, 0xD9] with
      image := { imageP1 with fEoi := false } }
    let records : List SegRecord := [{ marker := 0xFE, payload := [0x78] }]
    s.image.scans ≠ [] ∧ s.image.fEoi = false ∧ (∀ r ∈ records, r.ok = true) ∧
    s.reader.holds ((records.flatMap fun r => segmentBytes r.marker r.payload) ++ [0xFF, 0xD9]) = true := by decide +kernel

/-- Two turns of a walk (COM, then SOF2), a turn that ends it (EOI), a walk at no marker, and DECODEs that end in the
check for SOI, in the walk and in `DECODED`. -/
theorem witness_WalkEndsAtEoi_turns :
    (let s := reading [0xFF, 0xFF, 0xFE, 0x00, 0x03, 0x78, 0xFF, 0xC2]
     s.reader.holds (List.replicate (1 + 1) 0xFF ++ [0xFE]) = true ∧
      ok (exec (decodeMarkerCode 0xFE) { s with reader := { s.reader with rp := 3 } })
        (fun t => t.status.phase == s.status.phase && t.image.fEoi == false && t.reader.rp == 6) = true ∧
      failed (exec .walk s) .unsupportedMode = true) ∧
    (let s := reading [0xFF, 0xC2]
     s.reader.holds (List.replicate (0 + 1) 0xFF ++ [0xC2]) = true ∧
      ok (exec (decodeMarkerCode 0xC2) { s with reader := { s.reader with rp := 2 } })
        (fun t => t.status.phase != s.status.phase) = true) ∧
    (let s := readingIn { imageP1 with fEoi := false } [0xFF, 0xD9]
     ok (exec (decodeMarkerCode 0xD9) { s with reader := { s.reader with rp := 2 } })
        (fun t => t.status.phase == s.status.phase && t.image.fEoi) = true) ∧
    (failed (exec .readMarker (reading [0x12])) .invalidMarker = true ∧ (reading [0x12]).status.phase ≠ .failed) ∧
    failed (exec .checkSoi (reading [0xFF, 0xD9])) .invalidMarker = true ∧
    failed (exec (.decode [0xFF, 0xD9]) State.reset) .invalidMarker = true ∧
    failed (exec (.decode [0xFF, 0xD8, 0xFF, 0xFE, 0x00, 0x03, 0x78, 0xFF, 0xC2]) State.reset) .unsupportedMode = true ∧
    ok (exec (.decode bytesP1) State.reset) (fun t => t.status.phase == .decoded) = true := by decide +kernel

theorem witness_DcSymbolsMoveThePredictor :
    (reading [0x00, 0x0F]).reader.takeBits 11 =
      some (List.replicate 11 false, { inp := [0x00, 0x0F], rp := 2, racc := 0x0F, rcnt := 5 }) ∧
    (reading [0xFF, 0xD9]).reader.takeBits 1 = none := by decide +kernel

theorem witness_AcSymbolsFillTheBlock :
    (48 ≤ 48 ∧ 48 < 49) ∧ (Instr.acRunSize 14 1).wellFormed = true ∧ 49 + (14 : BitVec 4).toNat < 64 ∧
    (reading [0x80]).reader.takeBits 1 = some ([true], { inp := [0x80], rp := 1, racc := 0x80, rcnt := 7 }) ∧
    64 ≤ 50 + (14 : BitVec 4).toNat ∧ (reading []).reader.takeBits 1 = none := by decide +kernel

theorem witness_EscapesAndPaddingMoveTheCursor :
    (reading [0xFF]).reader.holds [0xFF] = true ∧ (reading [0xFF, 0x00]).reader.holds [0xFF, 0x00] = true ∧
    (reading [0xFF, 0xD9]).reader.holds [0xFF, 0x00] = false ∧ State.reset.status.phase ≠ .busyEnc ∧
    State.reset.reader.rcnt ≠ 1 ∧
    (let s := { writing 1 1 with status := { Status.reset with phase := .busyEnc } }
     s.status.phase = .busyEnc ∧ s.writer.ok = true ∧ s.writer.wcnt + 7 = 8 ∧ s.writer.wcnt + 6 ≠ 8) := by decide +kernel

theorem witness_ReaderIsPositionedAndPeeked :
    6 ≤ brState.reader.inlen ∧ brState.reader.inlen < 7 ∧
    ((reading [0xFF, 0xFF]).reader.holds [0xFF, 0xFF] = true ∧ (0xFF : Byte) ≠ 0) ∧
    (∀ m : Byte, m ≠ 0 → (reading [0xFF, 0x00]).reader.holds [0xFF, m] = false) := by decide +kernel

theorem witness_ReaderDeliversBitsInOrder :
    (∃ r, (reading [0xFF, 0x00]).reader.fetched = some r) ∧ (reading [0xFF, 0xD9]).reader.fetched = none ∧
    (∃ b r, (reading [0x80]).reader.nextBit = some (b, r)) ∧ (reading []).reader.nextBit = none ∧
    (∃ bits r, (reading [0x12, 0x34]).reader.takeBits 16 = some (bits, r)) ∧ (reading [0x12]).reader.takeBits 9 = none :=
  ⟨⟨_, rfl⟩, rfl, ⟨_, _, rfl⟩, rfl, ⟨_, _, rfl⟩, rfl⟩

/-- Ten bits of `12 FF 00 | FF D9` are there and seventeen are not; bits of a byte under way; calls that end ok and not. -/
theorem witness_ReaderDeliversTheDestuffedBytes :
    (let s := reading [0x12, 0xFF, 0x00, 0xFF, 0xD9]
     let bits := bytesToBits (destuff (s.reader.inp.drop s.reader.rp))
     s.reader.rcnt = 0 ∧ 10 ≤ bits.length ∧ bits.length < 17 ∧ bits.length = 16 ∧
      (match (readBitsFrom 0 10).run s with
       | .ok w t => w == 0x4B && t.reader.rp == 3 && t.reader.rcnt == 6
       | .error _ _ => false) = true ∧
      bytesToBits (destuff ((reading [0xFF, 0xD9]).reader.inp.drop 0)) = []) ∧
    (let s : State := { State.reset with reader := { Reader.reset with racc := 5, rcnt := 3 } }
     (match (readBitsFrom 0 3).run s with
      | .ok w t => w == 5 && t.reader.rp == 0
      | .error _ _ => false) = true ∧ 0 < s.reader.rcnt ∧ ok (exec .readBit s) (fun t => t.reader.rp == 0) = true) ∧
    Instr.readMarker ∈ [Instr.fetchByte, .readBit, .readBits 0, .peekMarker, .alignToByte, .readMarker] ∧
    ok (exec .readMarker (reading [0xFF, 0xD9])) (fun t => t.reader.rp == 2) = true ∧
    failed (exec .fetchByte (reading [0xFF, 0xD9])) .unexpectedEndOfStream = true := by decide +kernel

theorem witness_ReadMarkerSkipsFillBytes :
    (reading [0xFF, 0xFF, 0xD9]).reader.holds (List.replicate (1 + 1) 0xFF ++ [0xD9]) = true ∧
    (reading [0xFF, 0x00]).reader.holds (List.replicate (0 + 1) 0xFF ++ [0x00]) = true ∧
    ((reading [0x12]).reader.holds [0x12] = true ∧ (0x12 : Byte) ≠ 0xFF) ∧
    (reading [0xFF]).reader.inp.drop (reading [0xFF]).reader.rp = List.replicate 1 0xFF := by decide +kernel

theorem witness_WriterAppendsBytes : State.reset.writer.wcnt = 0 ∧ (writing 1 1).writer.wcnt ≠ 0 := by decide

theorem witness_WriterPacksBits :
    (writing 127 7).writer.ok = true ∧ 0 < (writing 127 7).writer.wcnt ∧ (writing 0 0).writer.ok = true ∧
    (writing 0 0).writer.wcnt = 0 := by decide +kernel

/-- V-BW12. -/
theorem witness_WrittenBitsAreReadBack :
    let ops : List (Nat × Nat) := [(0xFFFF, 16), (0, 1)]
    (∀ op ∈ ops, op.2 ≤ 16) ∧
    (ops.foldl (fun (w : Writer) (op : Nat × Nat) => w.writeBits op.1 op.2) Writer.reset).flush.out =
      [0xFF, 0x00, 0xFF, 0x00, 0x7F] ∧
    (∃ (m : Byte) (rest : List Byte), ([0xFF, 0xD9] : List Byte) = 0xFF :: m :: rest ∧ m ≠ 0) :=
  ⟨by decide, by decide +kernel, 0xD9, [], rfl, by decide⟩

/-- V-HF4: a table with codes of every length up to 16, two of them of length 16. -/
def tallTable : HuffSlot :=
  { valid := true, counts := #v[1, 1, 1, 1, 1, 1, 1, 1, 1, 1, 1, 1, 1, 1, 1, 2], values := (List.range 17).map (BitVec.ofNat 8) }

theorem witness_BuildTableAssignsCanonicalCodes :
    tallTable.values.length = totalOf tallTable.counts ∧ (∃ cs, buildTable tallTable.counts = some cs) ∧
    buildTable #v[3, 0, 0, 0, 0, 0, 0, 0, 0, 0, 0, 0, 0, 0, 0, 0] = none :=
  ⟨by decide +kernel, ⟨_, rfl⟩, by decide +kernel⟩

theorem witness_HuffDecodeReadsOneCode :
    ((readingIn imageP1 [0xFC]).image.ht .ac 0).valid = true ∧
    (∃ cs r, buildTable tableAc.counts = some cs ∧ ((126, 7), (0xE2 : Byte)) ∈ cs.zip tableAc.values ∧
      (readingIn imageP1 [0xFC]).reader.takeBits 7 = some (natToBits 126 7, r)) ∧
    (∃ cs r, buildTable tableAc.counts = some cs ∧
      (readingIn imageP1 [0xFF, 0x00, 0xFF, 0x00]).reader.takeBits 16 = some (List.replicate 16 true, r) ∧
      ∀ e ∈ cs.zip tableAc.values, (natToBits e.1.1 e.1.2).isPrefixOf (List.replicate 16 true) = false) ∧
    (∃ cs r, buildTable tableAc.counts = some cs ∧
      (readingIn imageP1 [0xFF, 0x00, 0xFF]).reader.takeBits 8 = some (List.replicate 8 true, r) ∧
      (readingIn imageP1 [0xFF, 0x00, 0xFF]).reader.takeBits 9 = none ∧
      ∀ e ∈ cs.zip tableAc.values, (natToBits e.1.1 e.1.2).isPrefixOf (List.replicate 8 true) = false) ∧
    ((readingIn imageP1 [0x00, 0x00]).image.ht .ac 3).valid = false ∧ (reading [0x00, 0x00]).reader.takeBits 16 ≠ none ∧
    (reading [0x00]).reader.takeBits 16 = none :=
  ⟨rfl, ⟨_, _, rfl, by decide +kernel, rfl⟩, ⟨_, _, rfl, rfl, by decide +kernel⟩,
    ⟨_, _, rfl, rfl, by decide +kernel, by decide +kernel⟩, rfl, by decide +kernel, by decide +kernel⟩

theorem witness_HuffmanCodesRoundTrip :
    ((decoded imageP1).image.ht .ac 0).valid = true ∧ ((decoded imageP1).image.ht .ac 0).ok = true ∧
    0xE2 ∈ ((decoded imageP1).image.ht .ac 0).values ∧ 0x03 ∉ ((decoded imageP1).image.ht .ac 0).values ∧
    ((decoded imageP1).image.ht .ac 1).valid = false ∧
    (tableAc.codeOf 0xE2 = some (natToBits 126 7) ∧
      ∃ r, (readingIn imageP1 [0xFC]).reader.takeBits 7 = some (natToBits 126 7, r)) :=
  ⟨rfl, by decide +kernel, by decide +kernel, by decide +kernel, rfl, by decide +kernel, ⟨_, rfl⟩⟩

theorem witness_MagnitudeBitsRoundTrip :
    (15 ≤ 15 ∧ 32767 < 2 ^ 15) ∧ (0 : Int) < 32768 ∧ (-32768 : Int) < 0 ∧
    0 < 2 ^ (1 - 1) ∧ 2 ^ (1 - 1) ≤ 1 := by decide

/-- The block of P1. -/
def blockP1 : Vector Int 64 := ((((Vector.replicate 64 0).set 0 3).set 1 1).set 3 (-1))

/-- The bits of P1's block: `110 11 / 10 1 / 110 0 / 0`. -/
def bitsP1 : List Bool := natToBits 0xDD 8 ++ natToBits 0x18 5

/-- P1 with codes for an illegal DC symbol and for `R = 14, S = 0`, ZRL, EOB, `R = 0, S = 1` and `R = 1, S = 1`. -/
def oddTables : Image :=
  { imageP1 with
    htDc := Image.reset.htDc.set 0 { tableDc with values := [12, 1, 2, 3, 8] }
    htAc := Image.reset.htAc.set 0 { tableDc with values := [0xE0, 0xF0, 0x00, 0x01, 0x11] } }

/-- The clauses on symbols that cannot be decoded, and on a size of 0 behind a run. -/
theorem witness_DecodeBlockReadsTheDataUnit_stops :
    (let s := readingIn oddTables [0x00]
     (s.image.ht .dc 0).codeOf 12 = some [false] ∧ (s.image.ht .ac 0).codeOf (nibbles 14 0) = some [false] ∧
      (Instr.acRunSize 14 0).wellFormed = true ∧ s.reader.takeBits 1 = some ([false], { s.reader with rp := 1, rcnt := 7 }) ∧
      refusedFor (exec (.decodeDc 0 0) s) .dcSizeOutOfRange = true ∧
      refusedFor (exec (.decodeBlock 0 0 0) s) .dcSizeOutOfRange = true ∧ s.work.k + 14 < 64 ∧
      ok (exec (.decodeAc 0) s) (fun t => t.work.k == 16 && t.work.cb[15] == 0) = true ∧
      refusedFor (exec (.decodeAc 0) { s with work := { s.work with k := 50 } }) .acIndexOverflow = true) ∧
    (let s := { readingIn oddTables [0x80] with work := { Work.reset with k := 49 } }
     (s.image.ht .ac 0).codeOf (nibbles 15 0) = some [true, false] ∧
      s.reader.takeBits 2 = some ([true, false], { s.reader with rp := 1, racc := 0x80, rcnt := 6 }) ∧
      refusedFor (exec (.decodeAc 0) s) .acIndexOverflow = true) ∧
    (let s := { readingIn oddTables [] with reader := { Reader.reset with racc := 0x0E, rcnt := 4 } }
     (s.image.ht .dc 0).codeOf 3 = some [true, true, true, false] ∧ (s.image.ht .ac 0).codeOf 0x01 = some [true, true, true, false] ∧
      s.reader.takeBits 4 = some ([true, true, true, false], { s.reader with rcnt := 0 }) ∧
      ({ s.reader with rcnt := 0 } : Reader).takeBits 1 = none ∧ ({ s.reader with rcnt := 0 } : Reader).takeBits 3 = none ∧
      failed (exec (.decodeDc 0 0) s) .unexpectedEndOfStream = true ∧ failed (exec (.decodeAc 0) s) .unexpectedEndOfStream = true) ∧
    (failed (exec (.huffDecode .dc 0) (reading [])) .unexpectedEndOfStream = true ∧
      failed (exec (.huffDecode .ac 0) (reading [])) .unexpectedEndOfStream = true ∧
      (reading []).status.phase ≠ .failed) := by decide +kernel

/-- `decode_block` where `decode_dc` goes well: past index 63 by ZRLs, without the magnitude bits, to its EOB. -/
theorem witness_DecodeBlockReadsTheDataUnit_loop :
    [readingIn imageP1 [0x77, 0x77, 0x77, 0x77], readingIn imageP1 [0x7C], readingIn imageP1 [0x28]].all
      (fun s => ok (exec (.decodeDc 0 0) { s with work := { s.work with cb := Vector.replicate 64 0 } })
        (fun t => t.status.phase == .idle && ok (exec (.decodeBlock 0 0 0) s) (fun u =>
          ok (acLoop 0 63 { t with work := { t.work with k := 1 }, port := { t.port with result := s.port.result } })
            (fun v => u == v)))) = true ∧
    failed (exec (.decodeBlock 0 0 0) (readingIn imageP1 [0x7C])) .unexpectedEndOfStream = true ∧
    refusedFor (exec (.decodeBlock 0 0 0) (readingIn imageP1 [0x77, 0x77, 0x77, 0x77])) .acIndexOverflow = true ∧
    (State.reset.status.phase ≠ .failed ∧ State.reset.status.phase ≠ .refused) := by decide +kernel

theorem witness_DecodeBlockReadsTheDataUnit :
    (dcBits tableDc 3 = some (natToBits 27 5) ∧ ∃ r, (reading [0xDD]).reader.takeBits 5 = some (natToBits 27 5, r)) ∧
    (tableAc.codeOf 0x00 = some [false] ∧ ∃ r, (reading [0x00]).reader.takeBits 1 = some ([false], r)) ∧
    (tableAc.codeOf 0xF0 = some (natToBits 14 4) ∧ (∃ r, (reading [0xE0]).reader.takeBits 4 = some (natToBits 14 4, r)) ∧
      (State.reset).work.k ≤ 48) ∧
    (1 + (14 : BitVec 4).toNat < 64 ∧ size (-2) ≤ 15 ∧
      tableAc.codeOf (nibbles 14 (BitVec.ofNat 4 (size (-2)))) = some (natToBits 126 7) ∧
      ∃ r, (reading [0xFC, 0x80]).reader.takeBits (7 + size (-2)) =
        some (natToBits 126 7 ++ natToBits (magbits (-2) (size (-2))) (size (-2)), r)) ∧
    (blockBits tableDc tableAc 0 blockP1 = some bitsP1 ∧
      ∃ r, (reading [0xDD, 0xC7]).reader.takeBits bitsP1.length = some (bitsP1, r)) :=
  ⟨⟨by decide +kernel, _, rfl⟩, ⟨by decide +kernel, _, rfl⟩, ⟨by decide +kernel, ⟨_, rfl⟩, by decide⟩,
    ⟨by decide, by decide, by decide +kernel, _, rfl⟩, by decide +kernel, _, rfl⟩

/-- P1's block in `CB` over its tables. -/
def coding (cb : Vector Int 64) : State := { decoded imageP1 with work := { Work.reset with cb := cb } }

/-- P1's tables without the codes of ZRL and EOB. -/
def shortAc : HuffSlot := { valid := true, counts := (Vector.replicate 16 0).set 0 1, values := [0x01] }

/-- A value too large at index 3, one without a code there, a run without ZRL, a block without EOB. -/
theorem test_encode_defects :
    refusedFor (exec (.encodeAc 0) (coding (blockP1.set 3 (-32768)))) .acMagnitudeOutOfRange ∧
    failed (exec (.encodeAc 0) (coding (blockP1.set 3 2))) .invalidHuffmanCode ∧
    failed (exec (.encodeBlock 0 0 0) (coding (blockP1.set 0 15))) .invalidHuffmanCode ∧
    refusedFor (exec (.encodeBlock 0 0 0) (coding (blockP1.set 0 2048))) .dcDiffOutOfRange ∧
    (let s := fun cb => { coding cb with image := { imageP1 with htAc := imageP1.htAc.set 0 shortAc } }
     failed (exec (.encodeAc 0) (s ((Vector.replicate 64 0).set 17 1))) .invalidHuffmanCode ∧
      failed (exec (.encodeAc 0) (s ((Vector.replicate 64 0).set 1 1))) .invalidHuffmanCode) := by decide +kernel

theorem witness_EncodeBlockWritesTheDataUnit :
    dcBits tableDc (blockP1[0] - 0) = some (natToBits 27 5) ∧ 2048 ≤ (2048 - (0 : Int)).natAbs ∧
    (((15 : Int) - 0).natAbs < 2048 ∧ tableDc.ok = true ∧ tableDc.codeOf (BitVec.ofNat 8 (size (15 - 0))) = none) ∧
    acBits tableAc 0 blockP1.toList.tail = some (natToBits 0xB8 8) ∧
    (let before : List Int := [1, 0]
     let after : List Int := List.replicate 60 0
     (∀ v : Int, (coding (blockP1.set 3 v)).work.cb.toList.tail = before ++ v :: after) ∧
      acRunBits tableAc 0 before = some (natToBits 5 3, 1) ∧ 32768 ≤ (-32768 : Int).natAbs ∧
      zrlBits tableAc (1 / 16) ≠ none ∧ (2 : Int).natAbs < 32768 ∧ tableAc.ok = true ∧
      tableAc.codeOf (nibbles (BitVec.ofNat 4 (1 % 16)) (BitVec.ofNat 4 (size 2))) = none) ∧
    (shortAc.ok = true ∧ ((Vector.replicate 64 (0 : Int)).set 17 1).toList.tail =
        List.replicate 16 0 ++ 1 :: List.replicate 46 0 ∧
      acRunBits shortAc 0 (List.replicate 16 0) = some ([], 16) ∧ zrlBits shortAc (16 / 16) = none) ∧
    (acRunBits shortAc 0 ((Vector.replicate 64 (0 : Int)).set 1 1).toList.tail = some ([false, true], 62) ∧
      shortAc.codeOf 0x00 = none) ∧
    blockBits tableDc tableAc 0 blockP1 = some bitsP1 ∧
    ((∃ t, exec (.encodeDc 0 0) (coding blockP1) = .next t) ∧
      dcBits tableDc ((coding blockP1).work.cb[0] - (coding blockP1).work.pred[0]) ≠ none ∧
      dcBits tableDc ((coding (blockP1.set 0 15)).work.cb[0] - (coding (blockP1.set 0 15)).work.pred[0]) = none) :=
  ⟨by decide +kernel, by decide, by decide +kernel, by decide +kernel, ⟨fun _ => rfl, by decide +kernel⟩,
    by decide +kernel, by decide +kernel, by decide +kernel, ⟨_, rfl⟩, by decide +kernel⟩

/-- The entropy-coded bytes of P3, two restart markers among them. -/
def scanP3 : List Byte := [0xEA, 0xFF, 0xD0, 0xEB, 0xE9, 0xFF, 0xD1, 0xC3]

theorem witness_ScanDecodesItsEntropyData :
    (let s := readingIn { imageP3 with plane := [] } scanP3
     s.image.ok = true ∧ s.image.plane.wf = true ∧ s.image.scans.getLast? = some grayScan ∧
      ({ s.image with plane := imageP3.plane, scans := [grayScan] } : Image).scanBytes = some scanP3 ∧
      s.reader.holds scanP3 = true ∧ s.notCancelled s.image.frame.mcuCount = true) ∧
    (let s := readingIn { imageP3 with plane := [], scans := [] } (segment (sosPayload imageP3.frame grayScan) ++ scanP3)
     s.image.ok = true ∧ s.image.frame.valid = true ∧ grayScan.ok s.image.frame = true ∧
      ({ s.image with plane := imageP3.plane, scans := [grayScan] } : Image).scanBytes = some scanP3 ∧
      s.reader.holdsSegment (sosPayload s.image.frame grayScan) = true ∧
      (s.pastSegment (sosPayload s.image.frame grayScan)).reader.holds scanP3 = true ∧
      s.notCancelled s.image.frame.mcuCount = true) := by decide +kernel

/-- A decoded image under a host configuration with `skip_zero_pairs` as given. -/
def hosting (skip : Bool) (im : Image) : State :=
  { decoded im with agent := { Agent.reset with config := { AgentConfig.default with skipZero := skip } } }

/-- Twenty pairs: a length prefix of 1 in the first 16, zeros behind it. -/
def oneByte : Image :=
  gray 40 0 (((List.range 15).flatMap fun idx =>
    let p := pairCells (grayFrame 40) 0 8 idx
    [(p.1, (-3 : Int)), (p.2, 4)]) ++ [((pairCells (grayFrame 40) 0 8 15).1, 5)])

/-- P3 with `CANCEL` sampled 0 and then 1: the second MCU is not begun. Host runs with `CANCEL` at 1 before a later pair. -/
theorem witness_EncodeOnlyReadsTheImage_cancel :
    (let s := { readingIn { imageP3 with plane := [] } scanP3 with port := { Port.reset with cancel := [false, true] } }
     s.image.scans.getLast? = some grayScan ∧ 1 < s.image.frame.mcuCount ∧
      (match (do brAttach s.reader.rp; scanBegin; decodeMcus grayScan.sc 0 1 : Proc Unit).run s with
       | .ok _ t => t.port.cancel.headD false
       | .error _ _ => false) = true ∧ failed (exec .decodeScan s) .cancelled = true) ∧
    (let s := { decoded imageP3 with port := { Port.reset with cancel := [false, true] } }
     s.image.scans ≠ [] ∧ 1 < s.image.frame.mcuCount ∧
      (match (do scanBegin; encodeMcus s.image.scan0.sc 0 1 : Proc Unit).run s with
       | .ok _ t => t.port.cancel.headD false
       | .error _ _ => false) = true ∧ failed (exec .encodeScan s) .cancelled = true) ∧
    (let s := { decoded imageP3 with port := { Port.reset with cancel := [false, false, false, true] } }
     s.status.phase ≠ .failed ∧ s.status.phase ≠ .refused ∧
      ok (exec .encodeScan s) (fun t => t.status == s.status && t.port.cancel == [true]) = true) ∧
    (let s := { hosting true (gray 40 0 [(cellAddr 0 0 0 1, 3)]) with port := { Port.reset with cancel := [false, false, true] } }
     let left := fun n =>
       (embedRun s.agent.config ((List.range n).map (s.pairOf 0)) (bytesToBits (frameBytes []))).2.1
     s.hostReady 0 = true ∧ s.image.plane.wf = true ∧ 2 < s.pairsIn 0 ∧
      ([] : List Byte).length + 4 ≤ lumaBlocks s.image.frame 0 * s.agent.config.k / 8 ∧
      s.notCancelled 2 = true ∧ s.port.cancel.getD 2 false = true ∧ left 0 = bytesToBits (frameBytes []) ∧
      (left 2).length = 30 ∧
      ok (exec (.embed []) s) (fun t => t.agent.status == .failed .cancelled 2 && t.image == Image.reset) = true ∧
      ok (exec (.embed []) { s with port := { Port.reset with cancel := [true] } })
        (fun t => t.agent.status == .failed .cancelled 0 && t.image == s.image) = true) ∧
    (let s := { hosting true oneByte with port := { Port.reset with cancel := List.replicate 16 false ++ [true] } }
     s.hostReady 0 = true ∧ 16 < s.pairsIn 0 ∧ s.notCancelled 16 = true ∧ s.port.cancel.getD 16 false = true ∧
      ((s.carriers 0).filter (· < 16)).length = 16 ∧ ((s.carriers 0).filter (· < 3)).length < 16 ∧
      8 * bitsToNat (s.carriedBits 0 ((s.carriers 0).take 16)) ≤ 2 * (s.pairsIn 0 - 16) ∧
      16 < 16 + 4 * bitsToNat (s.carriedBits 0 ((s.carriers 0).take 16)) ∧
      ok (exec .extract s) (fun t => t.agent.status == .failed .cancelled 16) = true) := by decide +kernel

theorem witness_DecodeReadsTheStreamOfAnImage :
    imageP3.ok = true ∧ imageP3.frame.valid = true ∧ imageP3.scans = [grayScan] ∧ imageP3.tablesReady = true ∧
    imageP3.scanBytes = some scanP3 ∧ State.reset.notCancelled imageP3.frame.mcuCount = true ∧
    imageP3.headBytes ++ scanP3 ++ [0xFF, 0xD9] = bytesP3 := by decide +kernel

theorem witness_EncodeWritesTheStreamOfTheImage :
    (decoded imageP3).image.nscan = 1 ∧ (decoded imageP3).image.tablesReady = true ∧
    (decoded imageP3).image.scanBytes = some scanP3 ∧ (decoded imageP3).notCancelled imageP3.frame.mcuCount = true ∧
    (decoded imageP3).writer.wcnt = 0 ∧ (decoded imageP3).writer.wacc = 0 := by decide +kernel

theorem witness_DecodeOfEncodeRestoresTheImage :
    (decoded imageP3).status.phase = .decoded ∧ imageP3.ok = true ∧ imageP3.frame.valid = true ∧
    imageP3.scans = [grayScan] ∧ ok (exec .encode (decoded imageP3)) (fun t => t.status.phase == .decoded) = true ∧
    State.reset.status.phase = .idle ∧ State.reset.notCancelled imageP3.frame.mcuCount = true := by decide +kernel

theorem witness_EncodeOnlyReadsTheImage :
    ok (exec .encode (decoded imageP1)) (fun t => t.status.phase == .decoded) = true ∧
    (let s2 := { decoded imageP1 with reader := { Reader.reset with inp := [1] } }
     s2.status.phase = .decoded ∧ (decoded imageP1).image = s2.image ∧ (decoded imageP1).port.cancel = s2.port.cancel ∧
      ok (exec .encode s2) (fun _ => true) = true) ∧
    ok (exec .encode (decoded { imageP1 with plane := [(1, 5)] })) (fun t => t.status.phase == .failed && t.writer.out == [] && t.image == { imageP1 with plane := [(1, 5)] }) = true := by
  decide +kernel

theorem witness_EmittersAppendTheirSegments :
    (decoded imageP1).writer.wcnt = 0 ∧ (decoded imageP1).image.scans ≠ [] ∧
    (usedQuant imageP1).all (fun t => imageP1.qt[t].valid) = true ∧
    (usedQuant noTable).all (fun t => noTable.qt[t].valid) = false ∧
    (usedHuff imageP1 .dc).all (fun t => (imageP1.ht .dc t).valid) = true ∧
    (usedHuff imageP1 .ac).all (fun t => (imageP1.ht .ac t).valid) = true ∧
    (let im := { imageP1 with htAc := Image.reset.htAc }
     (usedHuff im .ac).all (fun t => (im.ht .ac t).valid) = false) ∧ State.reset.image.scans = [] := by decide +kernel

theorem witness_RestartAndEoiFollowAFlush : (writing 127 7).writer.ok = true ∧ State.reset.writer.ok = true := by decide +kernel

theorem witness_QroundRoundsToNearestEven : 1 ≤ 1 := by decide

/-- P1 under a configuration of the host agent. -/
def misconfigured (config : AgentConfig) : State := { decoded imageP1 with agent := { Agent.reset with config := config } }

/-- Outside `DECODED`, an illegal number of positions, no component of the configured id. -/
theorem witness_HostDoesNotRun :
    State.reset.status.phase ≠ .decoded ∧
    (misconfigured { AgentConfig.default with k := 3 }).agent.config.legal = false ∧
    (let s := misconfigured { AgentConfig.default with component := 9 }
     s.status.phase = .decoded ∧ s.agent.config.legal = true ∧
      s.image.frame.findComp s.agent.config.component = none ∧ ok (exec (.embed []) s) (fun t => t == s.notRun) = true ∧
      ok (exec .extract s) (fun t => t == s.notRun) = true) := by decide +kernel

/-- Both new values inside; one of them outside on either side; both outside, moved alike and not. -/
theorem witness_PairsAreModulated :
    (misconfigured { AgentConfig.default with delta := 0 }).agent.config.legal = false ∧ State.reset.agent.config.legal = true ∧ embedPair 4 0 0 true false = some (-1, 2) ∧
    embedPair 10 1020 3 false true = none ∧ embedPair 10 3 1020 true false = none ∧
    (∃ delta a1 a2 b1 b2, embedPair delta a1 a2 b1 b2 = some (1023, 1023) ∧ 1023 < a1 ∧ 1023 < a2 ∧ 0 < delta) ∧
    (∃ delta a1 a2 b1 b2, embedPair delta a1 a2 b1 b2 = none ∧ 1023 < a1 ∧ 1023 < a2 ∧ 0 < delta) ∧
    (-1024 + ((1023 : Nat) : Int) ≤ 0 ∧ (0 : Int) ≤ 1023 - ((1023 : Nat) : Int)) :=
  ⟨by decide, by decide, by decide, by decide, by decide, ⟨1, 1030, 1030, false, false, by decide⟩,
    ⟨10, 1040, 1030, false, true, by decide⟩, by decide⟩

theorem witness_FrameCarriesItsLength : ([0x68] : List Byte).length < 2 ^ 32 := by decide

theorem witness_EmbedModulatesTheFirstPairs :
    (let s := decoded (gray 32 0 [])
     s.hostReady 0 = true ∧ s.image.plane.wf = true ∧ s.agent.config.skipZero = false ∧
      ([] : List Byte).length + 4 ≤ lumaBlocks s.image.frame 0 * s.agent.config.k / 8 ∧
      s.notCancelled (4 * (0 + 4)) = true ∧
      (∀ idx, idx < 4 * (0 + 4) →
        -1024 + (s.agent.config.delta : Int) ≤ (s.pairOf 0 idx).1 ∧ (s.pairOf 0 idx).1 ≤ 1023 - (s.agent.config.delta : Int) ∧
        -1024 + (s.agent.config.delta : Int) ≤ (s.pairOf 0 idx).2 ∧
        (s.pairOf 0 idx).2 ≤ 1023 - (s.agent.config.delta : Int))) ∧
    (let s := decoded (gray 32 0 [])
     lumaBlocks s.image.frame 0 * s.agent.config.k / 8 < [(7 : Byte)].length + 4) := by decide +kernel

/-- Pairs of zeros passed over, a pair that clamping would spoil passed over, and both runs out of pairs. -/
theorem witness_EmbedModulatesTheFirstPairs_run :
    (let s := hosting true (gray 72 0 [(cellAddr 0 0 0 1, 3)])
     s.hostReady 0 = true ∧ s.image.plane.wf = true ∧ s.notCancelled (s.pairsIn 0) = true ∧
      ([] : List Byte).length + 4 ≤ lumaBlocks s.image.frame 0 * s.agent.config.k / 8 ∧
      (embedRun s.agent.config ((List.range (s.pairsIn 0)).map (s.pairOf 0)) (bytesToBits (frameBytes []))).2.1.length = 30 ∧
      ok (exec (.embed []) s) (fun t => t.agent.status == .failed .payloadTooLarge 0 && t.image == Image.reset) = true) ∧
    (let s := hosting true (gray 32 0 [])
     (embedRun s.agent.config ((List.range (s.pairsIn 0)).map (s.pairOf 0)) (bytesToBits (frameBytes []))).2.1 =
        bytesToBits (frameBytes []) ∧
      ok (exec (.embed []) s) (fun t => t.agent.status == .failed .payloadTooLarge 0 && t.image == s.image) = true) ∧
    (let s := hosting false (gray 32 0 [(cellAddr 0 0 0 1, 1023), (cellAddr 0 0 0 2, 1023)])
     (embedRun s.agent.config ((List.range (s.pairsIn 0)).map (s.pairOf 0)) (bytesToBits (frameBytes []))).2 =
        ([false, false], true) ∧
      ok (exec (.embed []) s) (fun t => t.agent.status == .failed .clampingExhausted 15) = true) ∧
    (let s := hosting false (gray 40 0 [(cellAddr 0 0 0 1, 1023), (cellAddr 0 0 0 2, 1023)])
     (embedRun s.agent.config ((List.range (s.pairsIn 0)).map (s.pairOf 0)) (bytesToBits (frameBytes []))).2 = ([], true) ∧
      ok (exec (.embed []) s) (fun t => t.agent.status == .ok) = true) := by decide +kernel

/-- Sixteen pairs of zeros carry length 0; a length prefix above what follows; P1's four pairs are too few; a prefix of
one byte with a body of zeros passed over. -/
theorem witness_ExtractReadsTheFramedBytes :
    (let s := decoded (gray 32 0 [])
     s.hostReady 0 = true ∧ s.notCancelled (s.pairsIn 0) = true ∧ (s.carriers 0).length = 16 ∧
      8 * bitsToNat (s.carriedBits 0 ((s.carriers 0).take 16)) ≤ 2 * (s.pairsIn 0 - 16)) ∧
    ((decoded imageP1).hostReady 0 = true ∧ ((decoded imageP1).carriers 0).length < 16) ∧
    (let s := decoded (gray 32 0 [(cellAddr 0 0 0 1, -1), (cellAddr 0 0 0 2, 1)])
     16 ≤ (s.carriers 0).length ∧ 2 * (s.pairsIn 0 - 16) < 8 * bitsToNat (s.carriedBits 0 ((s.carriers 0).take 16))) ∧
    (let s := hosting true oneByte
     s.hostReady 0 = true ∧ (s.carriers 0).length = 16 ∧ s.pairsIn 0 = 20 ∧
      bitsToNat (s.carriedBits 0 ((s.carriers 0).take 16)) = 1 ∧
      ok (exec .extract s) (fun t => t.agent.status == .failed .payloadTruncated 0) = true) := by decide +kernel

/-- A state in which the step runs, legal in every respect: P1 decoded and P3 asked for. -/
def legalState : State := issued (decoded imageP1) { Request.bare 2 with buf := bytesP3 }

theorem witness_Invariants :
    legalState.image.plane.wf = true ∧ legalState.registersOk = true ∧ legalState.image.ok = true ∧
    legalState.statusOk = true ∧ ok (step legalState) (fun t => t.image == imageP3) = true := by decide +kernel

end Sys2Proof.Tests
end

section
/-! PROOFS of the bitstream unit: numbers and bit strings (spec R61). -/

namespace Sys2Proof

@[simp] theorem length_natToBits (value n : Nat) : (natToBits value n).length = n := by
  induction n with
  | zero => rfl
  | succ n ih => simp [natToBits, ih]

/-- The last bit of a bit string is the lowest bit of its number. -/
theorem natToBits_double_add (x : Nat) (b : Bool) (n : Nat) :
    natToBits (2 * x + b.toNat) (n + 1) = natToBits x n ++ [b] := by
  have half : (2 * x + b.toNat) / 2 = x := by
    have hb := Bool.toNat_lt b
    omega
  induction n with
  | zero => cases b <;> simp [natToBits]
  | succ n ih =>
    rw [natToBits, ih, natToBits, Nat.testBit_succ, half, List.cons_append]

@[simp] theorem bitsToNat_nil : bitsToNat [] = 0 := rfl

theorem bitsToNat_concat (bits : List Bool) (b : Bool) : bitsToNat (bits ++ [b]) = 2 * bitsToNat bits + b.toNat := by
  simp [bitsToNat]

theorem bitsToNat_lt (bits : List Bool) : bitsToNat bits < 2 ^ bits.length := by
  induction bits using List.reverseRecOn with
  | nil => decide
  | append_singleton bits b ih =>
    have hb := Bool.toNat_lt b
    rw [bitsToNat_concat, List.length_append, List.length_singleton, Nat.pow_succ]
    omega

theorem natToBits_bitsToNat (bits : List Bool) : natToBits (bitsToNat bits) bits.length = bits := by
  induction bits using List.reverseRecOn with
  | nil => rfl
  | append_singleton bits b ih =>
    rw [bitsToNat_concat, List.length_append, List.length_singleton, natToBits_double_add, ih]

theorem bitsToNat_natToBits (value n : Nat) : bitsToNat (natToBits value n) = value % 2 ^ n := by
  induction n generalizing value with
  | zero => simp [natToBits, Nat.mod_one]
  | succ n ih =>
    have split : value = 2 * (value / 2) + (value.testBit 0).toNat := by
      rw [Nat.testBit_zero]
      rcases Nat.mod_two_eq_zero_or_one value with h | h <;> simp [h] <;> omega
    calc bitsToNat (natToBits value (n + 1))
        = 2 * (value / 2 % 2 ^ n) + (value.testBit 0).toNat := by
          conv_lhs => rw [split, natToBits_double_add, bitsToNat_concat, ih]
      _ = value % 2 ^ (n + 1) := by
          rw [Nat.pow_succ', Nat.mod_mul]
          omega

/-- Padding with 1-bits, as a number. -/
theorem bitsToNat_append_ones (bits : List Bool) (k : Nat) :
    bitsToNat (bits ++ List.replicate k true) = 2 ^ k * bitsToNat bits + (2 ^ k - 1) := by
  induction k with
  | zero => simp
  | succ k ih =>
    have hk := Nat.two_pow_pos k
    rw [List.replicate_succ', ← List.append_assoc, bitsToNat_concat, ih, Nat.pow_succ, Bool.toNat_true,
      Nat.mul_right_comm]
    omega

/-- Where the bits of a number are all 1. -/
theorem testBit_of_natToBits_eq_ones {value n : Nat} (h : natToBits value n = List.replicate n true) {i : Nat}
    (hi : i < n) : value.testBit i = true := by
  induction n with
  | zero => omega
  | succ n ih =>
    rw [natToBits, List.replicate_succ, List.cons.injEq] at h
    obtain ⟨top, low⟩ := h
    rcases Nat.lt_succ_iff_lt_or_eq.mp hi with hlt | rfl
    · exact ih low hlt
    · exact top

/-- Shifting `k` bits into a byte appends them to its number. -/
theorem byte_shiftLeft_or (x y k : Nat) (hy : y < 2 ^ k) :
    (BitVec.ofNat 8 x <<< k) ||| BitVec.ofNat 8 y = BitVec.ofNat 8 (2 ^ k * x + y) := by
  apply BitVec.eq_of_getLsbD_eq
  intro i hi
  rw [BitVec.getLsbD_or, BitVec.getLsbD_shiftLeft, BitVec.getLsbD_ofNat, BitVec.getLsbD_ofNat, BitVec.getLsbD_ofNat,
    Nat.testBit_two_pow_mul_add _ hy]
  by_cases hik : i < k
  · simp [hi, hik]
  · have high : y.testBit i = false :=
      Nat.testBit_lt_two_pow (hy.trans_le (Nat.pow_le_pow_right (by decide) (Nat.not_lt.mp hik)))
    simp [hi, hik, high, Nat.lt_of_le_of_lt (Nat.sub_le i k) hi]

theorem bytesToBits_cons (b : Byte) (data : List Byte) :
    bytesToBits (b :: data) = natToBits b.toNat 8 ++ bytesToBits data := rfl

@[simp] theorem length_bytesToBits (data : List Byte) : (bytesToBits data).length = 8 * data.length := by
  induction data with
  | nil => rfl
  | cons b data ih =>
    rw [bytesToBits_cons, List.length_append, length_natToBits, ih, List.length_cons]
    omega

/-- Eight bits, made a byte, are the bits of that byte. -/
theorem natToBits_byte {chunk : List Bool} (h : chunk.length = 8) :
    natToBits (BitVec.ofNat 8 (bitsToNat chunk)).toNat 8 = chunk := by
  have hlt := bitsToNat_lt chunk
  rw [h] at hlt
  rw [BitVec.toNat_ofNat, Nat.mod_eq_of_lt hlt, ← h, natToBits_bitsToNat]

end Sys2Proof
end

section
/-! PROOFS of the bitstream unit: bit strings as padded and stuffed bytes (spec R91, R141, R143). -/

namespace Sys2Proof.Machine

/-- Data bytes with a zero after every `0xFF` (spec R91, R141). -/
def stuffed (data : List Byte) : List Byte := data.flatMap fun b => if b = 0xFF then [b, 0x00] else [b]

/-- The data bytes of a bit string, the last one padded (spec R143). -/
def dataBytes (bits : List Bool) : List Byte := packBits bits.length bits

theorem entropyBytes_eq (bits : List Bool) : entropyBytes bits = stuffed (dataBytes bits) := rfl

@[simp] theorem stuffed_nil : stuffed [] = [] := rfl

theorem stuffed_cons (b : Byte) (data : List Byte) :
    stuffed (b :: data) = (if b = 0xFF then [b, 0x00] else [b]) ++ stuffed data := rfl

theorem stuffed_cons_ff (data : List Byte) : stuffed (0xFF :: data) = 0xFF :: 0x00 :: stuffed data := rfl

theorem stuffed_cons_other {b : Byte} (h : b ≠ 0xFF) (data : List Byte) : stuffed (b :: data) = b :: stuffed data := by
  rw [stuffed_cons, if_neg h, List.singleton_append]

@[simp] theorem stuffed_singleton (b : Byte) : stuffed [b] = if b = 0xFF then [b, 0x00] else [b] := by
  rw [stuffed_cons, stuffed_nil, List.append_nil]

theorem stuffed_append (data data' : List Byte) : stuffed (data ++ data') = stuffed data ++ stuffed data' :=
  List.flatMap_append

/-- In stuffed bytes a zero follows every `0xFF` (spec R145). -/
theorem stuffed_zero_after_ff (data : List Byte) (i : Nat) (h : (stuffed data)[i]? = some 0xFF) :
    (stuffed data)[i + 1]? = some 0x00 := by
  induction data generalizing i with
  | nil => simp at h
  | cons b data ih =>
    by_cases hb : b = 0xFF
    · subst hb
      rw [stuffed_cons_ff] at h ⊢
      match i with
      | 0 => rfl
      | 1 => simp at h
      | i + 2 => exact ih i h
    · rw [stuffed_cons_other hb] at h ⊢
      match i with
      | 0 => exact absurd (Option.some.inj h) hb
      | i + 1 => exact ih i h

/-- The count of `packBits` is enough when it is the number of bits or more. -/
theorem packBits_of_length_le {n m : Nat} {bits : List Bool} (hn : bits.length ≤ n) (hm : bits.length ≤ m) :
    packBits n bits = packBits m bits := by
  induction n generalizing m bits with
  | zero =>
    obtain rfl := List.eq_nil_of_length_eq_zero (Nat.le_zero.mp hn)
    cases m <;> simp [packBits]
  | succ n ih =>
    cases m with
    | zero =>
      obtain rfl := List.eq_nil_of_length_eq_zero (Nat.le_zero.mp hm)
      simp [packBits]
    | succ m =>
      rw [packBits, packBits, ih (m := m) (by rw [List.length_drop]; omega) (by rw [List.length_drop]; omega)]

@[simp] theorem dataBytes_nil : dataBytes [] = [] := rfl

/-- The first byte of a bit string: its first eight bits, padded when there are fewer. -/
theorem dataBytes_of_ne_nil {bits : List Bool} (h : bits ≠ []) :
    dataBytes bits = BitVec.ofNat 8 (bitsToNat (bits.take 8 ++ List.replicate (8 - bits.length) true)) ::
      dataBytes (bits.drop 8) := by
  obtain ⟨n, hn⟩ := Nat.exists_eq_succ_of_ne_zero (mt List.length_eq_zero_iff.mp h)
  rw [dataBytes, hn, packBits, if_neg h, hn, dataBytes,
    packBits_of_length_le (n := n) (by rw [List.length_drop]; omega) le_rfl]

theorem dataBytes_chunk_append {chunk : List Bool} (h : chunk.length = 8) (bits : List Bool) :
    dataBytes (chunk ++ bits) = BitVec.ofNat 8 (bitsToNat chunk) :: dataBytes bits := by
  have hne : chunk ++ bits ≠ [] := by
    intro hnil
    simp [(List.append_eq_nil_iff.mp hnil).1] at h
  rw [dataBytes_of_ne_nil hne, List.take_left' h, List.drop_left' h, List.length_append, h,
    Nat.sub_eq_zero_of_le (Nat.le_add_right 8 _), List.replicate_zero, List.append_nil]

theorem dataBytes_short {bits : List Bool} (h0 : bits ≠ []) (h8 : bits.length ≤ 8) :
    dataBytes bits = [BitVec.ofNat 8 (bitsToNat (bits ++ List.replicate (8 - bits.length) true))] := by
  rw [dataBytes_of_ne_nil h0, List.take_of_length_le h8, List.drop_of_length_le h8, dataBytes_nil]

/-- Bit strings by their bytes: fewer than eight bits, or eight bits in front of a bit string. -/
theorem chunk_induction {P : List Bool → Prop} (short : ∀ bits, bits.length < 8 → P bits)
    (chunk : ∀ c bits, c.length = 8 → P bits → P (c ++ bits)) (bits : List Bool) : P bits := by
  by_cases h : bits.length < 8
  · exact short bits h
  · have hlt : (bits.drop 8).length < bits.length := by rw [List.length_drop]; omega
    rw [← List.take_append_drop 8 bits]
    exact chunk _ _ (List.length_take_of_le (Nat.not_lt.mp h)) (chunk_induction short chunk (bits.drop 8))
termination_by bits.length

theorem dataBytes_append_of_dvd (whole bits : List Bool) (h : 8 ∣ whole.length) :
    dataBytes (whole ++ bits) = dataBytes whole ++ dataBytes bits := by
  induction whole using chunk_induction with
  | short whole hlt =>
    obtain rfl := List.eq_nil_of_length_eq_zero (Nat.eq_zero_of_dvd_of_lt h hlt)
    rfl
  | chunk c whole hc ih =>
    rw [List.length_append, hc, Nat.dvd_add_right (dvd_refl 8)] at h
    rw [List.append_assoc, dataBytes_chunk_append hc, dataBytes_chunk_append hc, ih h, List.cons_append]

/-- Whole bytes are coded by themselves (spec R142). -/
theorem entropyBytes_append_of_dvd (whole bits : List Bool) (h : 8 ∣ whole.length) :
    entropyBytes (whole ++ bits) = entropyBytes whole ++ entropyBytes bits := by
  rw [entropyBytes_eq, dataBytes_append_of_dvd whole bits h, stuffed_append, ← entropyBytes_eq, ← entropyBytes_eq]

theorem entropyBytes_short {bits : List Bool} (h0 : bits ≠ []) (h8 : bits.length ≤ 8) :
    entropyBytes bits = stuffed [BitVec.ofNat 8 (bitsToNat (bits ++ List.replicate (8 - bits.length) true))] := by
  rw [entropyBytes_eq, dataBytes_short h0 h8]

/-- The bits of the data bytes are the bits packed, and fewer than eight 1-bits of padding (spec R143, R145). -/
theorem bytesToBits_dataBytes (bits : List Bool) :
    ∃ k, k < 8 ∧ bytesToBits (dataBytes bits) = bits ++ List.replicate k true := by
  induction bits using chunk_induction with
  | short bits hlt =>
    by_cases h0 : bits = []
    · exact ⟨0, by decide, by subst h0; rfl⟩
    · have hpos := List.length_pos_iff.mpr h0
      refine ⟨8 - bits.length, by omega, ?_⟩
      rw [dataBytes_short h0 hlt.le, bytesToBits_cons, natToBits_byte (by simp; omega)]
      exact List.append_nil _
  | chunk c bits hc ih =>
    obtain ⟨k, hk, ih⟩ := ih
    exact ⟨k, hk, by rw [dataBytes_chunk_append hc, bytesToBits_cons, natToBits_byte hc, ih, List.append_assoc]⟩

end Sys2Proof.Machine
end

section
/-! PROOFS of the bitstream unit: the bit writer (spec R140 to R145). -/

namespace Sys2Proof.Machine

/-- The writer to which these bits were written when `OUT` was `out` and no bits were gathered: whole bytes stand stuffed in
`OUT`, the rest in `wacc` (spec R142). -/
def Writer.holding (out : List Byte) (bits : List Bool) : Writer :=
  { out := out ++ entropyBytes (bits.take (8 * (bits.length / 8)))
    wacc := BitVec.ofNat 8 (bitsToNat (bits.drop (8 * (bits.length / 8))))
    wcnt := bits.length % 8 }

theorem exists_whole_append_rest (bits : List Bool) :
    ∃ whole rest, bits = whole ++ rest ∧ 8 ∣ whole.length ∧ rest.length < 8 := by
  refine ⟨bits.take (8 * (bits.length / 8)), bits.drop (8 * (bits.length / 8)), (List.take_append_drop _ _).symm, ?_, ?_⟩
  · rw [List.length_take_of_le (Nat.mul_div_le _ _)]
    exact Nat.dvd_mul_right _ _
  · rw [List.length_drop]
    omega

theorem Writer.holding_append (out : List Byte) {whole rest : List Bool} (hw : 8 ∣ whole.length)
    (hr : rest.length < 8) :
    Writer.holding out (whole ++ rest) =
      { out := out ++ entropyBytes whole, wacc := BitVec.ofNat 8 (bitsToNat rest), wcnt := rest.length } := by
  have hlen : 8 * ((whole ++ rest).length / 8) = whole.length := by rw [List.length_append]; omega
  have hmod : (whole ++ rest).length % 8 = rest.length := by rw [List.length_append]; omega
  rw [Writer.holding, hlen, hmod, List.take_left, List.drop_left]

/-- A writer in range holds the bits gathered in `wacc` (spec R23). -/
theorem Writer.eq_holding {w : Writer} (h : w.ok = true) :
    w = Writer.holding w.out (natToBits w.wacc.toNat w.wcnt) := by
  obtain ⟨hcnt, hacc⟩ : w.wcnt ≤ 7 ∧ w.wacc.toNat < 2 ^ w.wcnt := by simpa [Writer.ok] using h
  have hold := Writer.holding_append w.out (whole := []) (rest := natToBits w.wacc.toNat w.wcnt) (by simp)
    (by rw [length_natToBits]; omega)
  rw [List.nil_append] at hold
  rw [hold, bitsToNat_natToBits, Nat.mod_eq_of_lt hacc, BitVec.ofNat_toNat, BitVec.setWidth_eq, length_natToBits]
  exact congrArg (Writer.mk · w.wacc w.wcnt) (List.append_nil w.out).symm

/-- The byte gathered after one more bit. -/
theorem wacc_concat (bits : List Bool) (b : Bool) :
    (BitVec.ofNat 8 (bitsToNat bits) <<< 1) ||| (BitVec.ofBool b).zeroExtend 8 =
      BitVec.ofNat 8 (bitsToNat (bits ++ [b])) := by
  have hb : (BitVec.ofBool b).zeroExtend 8 = BitVec.ofNat 8 b.toNat := by cases b <;> rfl
  rw [hb, byte_shiftLeft_or _ _ 1 (Bool.toNat_lt b), bitsToNat_concat, Nat.pow_one]

/-- One turn of `write_bits` adds one bit to the bits written (spec R142). -/
theorem Writer.writeBit_holding (out : List Byte) (bits : List Bool) (b : Bool) :
    (Writer.holding out bits).writeBit b = Writer.holding out (bits ++ [b]) := by
  obtain ⟨whole, rest, rfl, hw, hr⟩ := exists_whole_append_rest bits
  rw [Writer.holding_append out hw hr, Writer.writeBit, wacc_concat, List.append_assoc]
  by_cases hfull : rest.length + 1 = 8
  · have hlen : (rest ++ [b]).length = 8 := by simpa using hfull
    have hdvd : 8 ∣ (whole ++ (rest ++ [b])).length := by
      rw [List.length_append, hlen]
      exact Dvd.dvd.add hw (dvd_refl 8)
    have hold := Writer.holding_append out (rest := []) hdvd (by decide)
    rw [List.append_nil] at hold
    rw [if_pos hfull, hold, entropyBytes_append_of_dvd _ _ hw, entropyBytes_short (by simp) hlen.le, hlen]
    simp [Writer.emitByte]
  · have hlen : (rest ++ [b]).length = rest.length + 1 := by simp
    rw [if_neg hfull, Writer.holding_append out hw (by omega), hlen]

theorem Writer.foldl_writeBit_holding (out : List Byte) (bits more : List Bool) :
    more.foldl Writer.writeBit (Writer.holding out bits) = Writer.holding out (bits ++ more) := by
  induction more generalizing bits with
  | nil => simp
  | cons b more ih => rw [List.foldl_cons, Writer.writeBit_holding, ih, List.append_assoc, List.singleton_append]

/-- `write_bits` adds the low `n` bits to the bits written (spec R142). -/
theorem Writer.writeBits_holding (out : List Byte) (bits : List Bool) (value n : Nat) :
    (Writer.holding out bits).writeBits value n = Writer.holding out (bits ++ natToBits value n) :=
  Writer.foldl_writeBit_holding out bits _

/-- The byte that `flush_with_padding` completes (spec R143). -/
theorem wacc_pad (bits : List Bool) (k : Nat) :
    (BitVec.ofNat 8 (bitsToNat bits) <<< k) ||| BitVec.ofNat 8 (2 ^ k - 1) =
      BitVec.ofNat 8 (bitsToNat (bits ++ List.replicate k true)) := by
  rw [byte_shiftLeft_or _ _ k (Nat.sub_lt (Nat.two_pow_pos k) Nat.one_pos), bitsToNat_append_ones]

/-- After a flush `OUT` holds all the bits written, padded and stuffed, and none are gathered (spec R143). -/
theorem Writer.flush_holding (out : List Byte) (bits : List Bool) :
    (Writer.holding out bits).flush = { out := out ++ entropyBytes bits, wacc := 0, wcnt := 0 } := by
  obtain ⟨whole, rest, rfl, hw, hr⟩ := exists_whole_append_rest bits
  rw [Writer.holding_append out hw hr, Writer.flush, entropyBytes_append_of_dvd _ _ hw]
  by_cases h0 : rest = []
  · subst h0
    exact congrArg (fun bytes => Writer.mk (out ++ bytes) 0 0) (List.append_nil (entropyBytes whole)).symm
  · rw [if_pos (List.length_pos_iff.mpr h0), wacc_pad, entropyBytes_short h0 hr.le]
    simp [Writer.emitByte]

/-- A sequence of writes to a reset writer (spec R145). -/
theorem Writer.foldl_writeBits_reset (ops : List (Nat × Nat)) :
    ops.foldl (fun (w : Writer) (op : Nat × Nat) => w.writeBits op.1 op.2) Writer.reset =
      Writer.holding [] (ops.flatMap fun op => natToBits op.1 op.2) := by
  suffices h : ∀ bits, ops.foldl (fun (w : Writer) (op : Nat × Nat) => w.writeBits op.1 op.2) (Writer.holding [] bits) =
      Writer.holding [] (bits ++ ops.flatMap fun op => natToBits op.1 op.2) from h []
  induction ops with
  | nil => simp
  | cons op ops ih =>
    intro bits
    rw [List.foldl_cons, Writer.writeBits_holding, ih, List.append_assoc, List.flatMap_cons]

end Sys2Proof.Machine
end

section
/-! PROOFS of the bitstream unit: the bit reader over written bytes (spec R130 to R137, R145). -/

namespace Sys2Proof.Machine

/-- Two bytes stand at the read cursor. -/
theorem Reader.holds_pair_iff (r : Reader) (a b : Byte) :
    r.holds [a, b] = true ↔ r.byte? r.rp = some a ∧ r.byte? (r.rp + 1) = some b := by
  have h0 : r.byte? r.rp = (r.inp.drop r.rp)[0]? := (List.getElem?_drop (j := 0)).symm
  have h1 : r.byte? (r.rp + 1) = (r.inp.drop r.rp)[1]? := List.getElem?_drop.symm
  rw [Reader.holds, h0, h1]
  match r.inp.drop r.rp with
  | [] => simp
  | [c] => simp
  | c :: d :: rest =>
    simp only [List.isPrefixOf_iff_prefix, List.cons_prefix_cons, List.nil_prefix, and_true, List.getElem?_cons_zero,
      List.getElem?_cons_succ, Option.some.injEq]
    exact and_congr eq_comm eq_comm

/-- `peek_marker` reports exactly the byte other than zero that follows an `0xFF` at `rp` (spec R134). -/
theorem peekMarker_eq_some_iff (r : Reader) (m : Byte) :
    peekMarker r = some m ↔ r.holds [0xFF, m] = true ∧ m ≠ 0 := by
  rw [Reader.holds_pair_iff, peekMarker]
  split
  · rename_i b c hb hc
    rw [hb, hc, Option.some.injEq, Option.some.injEq]
    have hcond : (b = 0xFF && c ≠ 0x00) = true ↔ b = 0xFF ∧ c ≠ 0 := by
      rw [Bool.and_eq_true, decide_eq_true_eq, decide_eq_true_eq]
    by_cases hmarker : b = 0xFF ∧ c ≠ 0
    · obtain ⟨hff, hne⟩ := hmarker
      rw [if_pos (hcond.mpr ⟨hff, hne⟩), Option.some.injEq]
      exact ⟨fun hcm => ⟨⟨hff, hcm⟩, hcm ▸ hne⟩, fun ⟨⟨_, hcm⟩, _⟩ => hcm⟩
    · rw [if_neg (mt hcond.mp hmarker)]
      exact ⟨nofun, fun ⟨⟨hff, hcm⟩, hne⟩ => absurd ⟨hff, hcm ▸ hne⟩ hmarker⟩
  · rename_i hshort
    exact ⟨nofun, fun ⟨⟨h0, h1⟩, _⟩ => (hshort _ _ h0 h1).elim⟩

/-- The reader stands in front of these data bytes of the written bytes `out`, behind which `tail` follows. -/
structure Reader.Before (r : Reader) (out tail data : List Byte) : Prop where
  inp_eq : r.inp = out ++ tail
  rp_le : r.rp ≤ out.length
  drop_eq : out.drop r.rp = stuffed data

theorem Reader.Before.byte?_eq {r : Reader} {out tail data : List Byte} (h : r.Before out tail data) {i : Nat}
    (hi : i < (stuffed data).length) : r.byte? (r.rp + i) = (stuffed data)[i]? := by
  rw [Reader.byte?, h.inp_eq, ← List.getElem?_drop, List.drop_append_of_le_length h.rp_le, h.drop_eq,
    List.getElem?_append_left hi]

/-- Past some of the data bytes, the reader stands in front of the others. -/
theorem Reader.Before.advance {r r' : Reader} {out tail past data : List Byte} (h : r.Before out tail (past ++ data))
    (hinp : r'.inp = r.inp) (hrp : r'.rp = r.rp + (stuffed past).length) : r'.Before out tail data := by
  have hdrop : out.drop r.rp = stuffed past ++ stuffed data := by rw [h.drop_eq, stuffed_append]
  have hlen := congrArg List.length hdrop
  rw [List.length_drop, List.length_append] at hlen
  have hle := h.rp_le
  refine ⟨hinp.trans h.inp_eq, by omega, ?_⟩
  rw [hrp, ← List.drop_drop, hdrop, List.drop_left]

/-- `fetch_byte` takes the first data byte, with its stuffed zero (spec R131). -/
theorem Reader.Before.fetched {r : Reader} {out tail data : List Byte} {b : Byte} (h : r.Before out tail (b :: data)) :
    ∃ r', r.fetched = some r' ∧ r'.racc = b ∧ r'.rcnt = 8 ∧ r'.Before out tail data := by
  have past : r.Before out tail ([b] ++ data) := h
  by_cases hb : b = 0xFF
  · subst hb
    have hlen : (stuffed (0xFF :: data)).length = (stuffed data).length + 2 := by rw [stuffed_cons_ff]; rfl
    have h0 : r.byte? r.rp = some 0xFF := h.byte?_eq (i := 0) (by omega)
    have h1 : r.byte? (r.rp + 1) = some 0x00 := h.byte?_eq (by omega)
    exact ⟨{ r with racc := 0xFF, rp := r.rp + 2, rcnt := 8 }, by simp [Reader.fetched, h0, h1], rfl, rfl,
      past.advance rfl rfl⟩
  · have h0 : r.byte? r.rp = some b := by
      have hbyte := h.byte?_eq (i := 0) (by simp [stuffed_cons_other hb])
      rwa [stuffed_cons_other hb] at hbyte
    refine ⟨{ r with racc := b, rp := r.rp + 1, rcnt := 8 }, ?_, rfl, rfl,
      past.advance rfl (by rw [stuffed_cons_other hb]; rfl)⟩
    simp only [Reader.fetched, h0, ne_eq, hb, not_false_eq_true, if_true]

/-- The bits the reader has still to deliver of the written bytes `out`: the unread bits of `racc`, then those of the data
bytes ahead. -/
def Reader.Yields (r : Reader) (out tail : List Byte) (bits : List Bool) : Prop :=
  ∃ data, r.Before out tail data ∧ bits = natToBits r.racc.toNat r.rcnt ++ bytesToBits data

/-- `read_bit` with bits unread fetches nothing (spec R132). -/
theorem Reader.nextBit_of_unread {r : Reader} {n : Nat} (h : r.rcnt = n + 1) :
    r.nextBit = some (r.racc.getLsbD n, { r with rcnt := n }) := by
  simp [Reader.nextBit, h]

/-- `read_bit` without unread bits is `fetch_byte` and then `read_bit` (spec R132). -/
theorem Reader.nextBit_of_fetched {r r' : Reader} (h0 : r.rcnt = 0) (hf : r.fetched = some r') (h8 : r'.rcnt = 8) :
    r.nextBit = r'.nextBit := by
  simp [Reader.nextBit, h0, hf, h8]

theorem Reader.Yields.nextBit_of_unread {r : Reader} {out tail : List Byte} {b : Bool} {bits : List Bool} {n : Nat}
    (h : r.Yields out tail (b :: bits)) (hn : r.rcnt = n + 1) :
    ∃ r', r.nextBit = some (b, r') ∧ r'.Yields out tail bits := by
  obtain ⟨data, before, heq⟩ := h
  rw [hn, natToBits, List.cons_append, List.cons.injEq, BitVec.testBit_toNat] at heq
  obtain ⟨rfl, rfl⟩ := heq
  exact ⟨{ r with rcnt := n }, Reader.nextBit_of_unread hn, data,
    ⟨before.inp_eq, before.rp_le, before.drop_eq⟩, rfl⟩

/-- `read_bit` delivers the first of the bits to deliver (spec R132, R137). -/
theorem Reader.Yields.nextBit {r : Reader} {out tail : List Byte} {b : Bool} {bits : List Bool}
    (h : r.Yields out tail (b :: bits)) : ∃ r', r.nextBit = some (b, r') ∧ r'.Yields out tail bits := by
  cases hcnt : r.rcnt with
  | succ n => exact h.nextBit_of_unread hcnt
  | zero =>
    obtain ⟨data, before, heq⟩ := h
    rw [hcnt] at heq
    cases data with
    | nil => simp [natToBits, bytesToBits] at heq
    | cons c data =>
      obtain ⟨r', hf, hacc, h8, before'⟩ := before.fetched
      have yields : r'.Yields out tail (b :: bits) := ⟨data, before', by rw [heq, hacc, h8]; rfl⟩
      rw [Reader.nextBit_of_fetched hcnt hf h8]
      exact yields.nextBit_of_unread h8

theorem Reader.Yields.takeBits {r : Reader} {out tail : List Byte} {bits rest : List Bool}
    (h : r.Yields out tail (bits ++ rest)) :
    ∃ r', r.takeBits bits.length = some (bits, r') ∧ r'.Yields out tail rest := by
  induction bits generalizing r with
  | nil => exact ⟨r, rfl, h⟩
  | cons b bits ih =>
    obtain ⟨r1, hbit, h1⟩ := h.nextBit
    obtain ⟨r2, hbits, h2⟩ := ih h1
    exact ⟨r2, by simp [Reader.takeBits, hbit, hbits], h2⟩

/-- `read_bits(n)` returns the number whose bits are delivered next (spec R133). -/
theorem readBits_run_of_yields {s : State} {out tail : List Byte} {value n : Nat} {rest : List Bool} (hn : n ≤ 16)
    (h : s.reader.Yields out tail (natToBits value n ++ rest)) :
    ∃ t : State, (readBits n).run s = .ok (value % 2 ^ n) t ∧ t.reader.Yields out tail rest := by
  obtain ⟨r, htake, hr⟩ := h.takeBits
  rw [length_natToBits] at htake
  refine ⟨{ s with reader := r }, ?_, hr⟩
  rw [(readBits_run n s hn).1 _ r htake, bitsToNat_natToBits]

/-- A sequence of reads returns the values written, one after the other (spec R145). -/
theorem mapM_readBits_run_of_yields {ops : List (Nat × Nat)} {out tail : List Byte} {rest : List Bool} {s : State}
    (hops : ∀ op ∈ ops, op.2 ≤ 16)
    (h : s.reader.Yields out tail (ops.flatMap (fun op => natToBits op.1 op.2) ++ rest)) :
    ∃ t : State, (ops.mapM fun (op : Nat × Nat) => readBits op.2).run s =
        .ok (ops.map fun (op : Nat × Nat) => op.1 % 2 ^ op.2) t ∧ t.reader.Yields out tail rest := by
  induction ops generalizing s with
  | nil => exact ⟨s, rfl, h⟩
  | cons op ops ih =>
    rw [List.flatMap_cons, List.append_assoc] at h
    obtain ⟨s1, hrun1, h1⟩ := readBits_run_of_yields (hops op List.mem_cons_self) h
    obtain ⟨t, hrun, ht⟩ := ih (fun op' hop' => hops op' (List.mem_cons_of_mem op hop')) h1
    refine ⟨t, ?_, ht⟩
    rw [List.mapM_cons, Proc.bind_run_ok hrun1, Proc.bind_run_ok hrun]
    rfl

/-- A reader attached to the bytes of a flushed writer has the bits written and less than a byte of 1-bits to deliver
(spec R143, R145). -/
theorem Reader.yields_entropyBytes (bits : List Bool) (tail : List Byte) :
    ∃ k, k < 8 ∧ Reader.Yields { inp := entropyBytes bits ++ tail, rp := 0, racc := 0, rcnt := 0 }
      (entropyBytes bits) tail (bits ++ List.replicate k true) := by
  obtain ⟨k, hk, hbits⟩ := bytesToBits_dataBytes bits
  exact ⟨k, hk, dataBytes bits, ⟨rfl, Nat.zero_le _, rfl⟩, hbits.symm⟩

/-- With less than a byte of 1-bits to deliver, every written byte has been fetched, and the unread bits are 1-bits. -/
theorem Reader.Yields.padding_left {r : Reader} {out tail : List Byte} {k : Nat} (hk : k < 8)
    (h : r.Yields out tail (List.replicate k true)) :
    r.rp = out.length ∧ r.rcnt < 8 ∧ ∀ i, i < r.rcnt → r.racc.getLsbD i = true := by
  obtain ⟨data, before, heq⟩ := h
  have hlen : k = r.rcnt + 8 * data.length := by simpa using congrArg List.length heq
  obtain rfl : data = [] := List.eq_nil_of_length_eq_zero (by omega)
  obtain rfl : k = r.rcnt := by simpa using hlen
  refine ⟨Nat.le_antisymm before.rp_le (List.drop_eq_nil_iff.mp before.drop_eq), hk, fun i hi => ?_⟩
  rw [← BitVec.testBit_toNat]
  exact testBit_of_natToBits_eq_ones (heq.trans (List.append_nil _)).symm hi

end Sys2Proof.Machine
end

section
/-! PROOFS of the bitstream unit: the statements settled. -/

namespace Sys2Proof.Machine

theorem exec_brAttach (p : Nat) (s : State) :
    exec (.brAttach p) s = runUnit (do require (p ≤ s.reader.inlen) .attachOutsideBuffer; brAttach p) s := by rfl

theorem exec_alignToByte (s : State) : exec .alignToByte s = runUnit alignToByte s := by rfl

theorem exec_peekMarker (s : State) :
    exec .peekMarker s = .next (s.returning (.marker (peekMarker s.reader))) := by rfl

theorem exec_bwReset (s : State) : exec .bwReset s = runUnit bwReset s := by rfl

theorem exec_emitByte (b : Byte) (s : State) : exec (.emitByte b) s = runUnit (emitByte b) s := by rfl

theorem exec_putRaw (bytes : List Byte) (s : State) : exec (.putRaw bytes) s = runUnit (putRaw bytes) s := by rfl

theorem exec_writeBits (value n : Nat) (s : State) :
    exec (.writeBits value n) s = runUnit (writeBits value n) s := by rfl

theorem exec_flushWithPadding (s : State) : exec .flushWithPadding s = runUnit flushWithPadding s := by rfl

/-- Settles O37: the writer's bytes are the bits written, padded and stuffed, and the reader delivers the bits of the data
bytes. -/
theorem writtenBitsAreReadBack : Obligations.WrittenBitsAreReadBack := by
  intro ops tail s hops _ w hreader
  have hout : w.out = entropyBytes (ops.flatMap fun op => natToBits op.1 op.2) := by
    simp only [w, Writer.foldl_writeBits_reset, Writer.flush_holding, List.nil_append]
  rw [hout] at hreader ⊢
  obtain ⟨k, hk, yields⟩ := Reader.yields_entropyBytes (ops.flatMap fun op => natToBits op.1 op.2) tail
  rw [← hreader] at yields
  obtain ⟨t, hrun, ht⟩ := mapM_readBits_run_of_yields hops yields
  exact ⟨⟨t, hrun, ht.padding_left hk⟩, stuffed_zero_after_ff _⟩

/-- Settles O36: a writer in range holds its gathered bits, `write_bits` adds bits and a flush packs them all. -/
theorem writerPacksBits : Obligations.WriterPacksBits := by
  refine ⟨fun s value n hok => ⟨fun hn => ?_, fun hn => ?_⟩, fun s hok => ⟨fun _ => ?_, fun h0 => ?_⟩⟩
  · have hwriter : s.writer.writeBits value n =
        Writer.holding s.writer.out (natToBits s.writer.wacc.toNat s.writer.wcnt ++ natToBits value n) := by
      conv_lhs => rw [Writer.eq_holding hok, Writer.writeBits_holding]
    have hrun := writeBits_run value n s
    rw [if_neg (Nat.not_lt.mpr hn), hwriter] at hrun
    rw [exec_writeBits, runUnit_ok hrun]
    rfl
  · have hrun := writeBits_run value n s
    rw [if_pos hn] at hrun
    exact ⟨takeRefusal .badOperand s, (exec_writeBits value n s).trans (runUnit_error hrun), rfl, rfl⟩
  · have hwriter : s.writer.flush =
        { out := s.writer.out ++ entropyBytes (natToBits s.writer.wacc.toNat s.writer.wcnt), wacc := 0, wcnt := 0 } := by
      conv_lhs => rw [Writer.eq_holding hok, Writer.flush_holding]
    rw [exec_flushWithPadding, runUnit_ok (flushWithPadding_run s), hwriter]
  · have hwriter : s.writer.flush = s.writer := by rw [Writer.flush, if_neg (by omega)]
    rw [exec_flushWithPadding, runUnit_ok (flushWithPadding_run s), hwriter]

/-- Settles O31: one run of each procedure; `peek_marker` by what it reports. -/
theorem readerIsPositionedAndPeeked : Obligations.ReaderIsPositionedAndPeeked := by
  refine ⟨fun s p hp => ?_, fun s => ?_, fun s m hholds hne => ?_, fun s hno => ?_⟩
  · rw [exec_brAttach]
    refine runUnit_ok ?_
    rw [require_bind_run, if_pos (decide_eq_true hp), brAttach_run]
  · rw [exec_alignToByte, runUnit_ok (alignToByte_run s)]
  · rw [exec_peekMarker, (peekMarker_eq_some_iff s.reader m).mpr ⟨hholds, hne⟩]
  · have hpeek : peekMarker s.reader = none := by
      refine Option.eq_none_iff_forall_ne_some.mpr fun m hsome => ?_
      obtain ⟨hholds, hne⟩ := (peekMarker_eq_some_iff s.reader m).mp hsome
      exact Bool.false_ne_true ((hno m hne).symm.trans hholds)
    rw [exec_peekMarker, hpeek]

/-- Settles O35: one run of each procedure. -/
theorem writerAppendsBytes : Obligations.WriterAppendsBytes := by
  refine ⟨fun s => ?_, fun s b => ?_, fun s bytes h0 => ?_⟩
  · rw [exec_bwReset, bwReset, runUnit_ok (modifyWriter_run _ s)]
  · rw [exec_emitByte, emitByte, runUnit_ok (modifyWriter_run _ s), Writer.emitByte]
    by_cases hb : b = 0xFF
    · rw [hb]
    · rw [if_neg hb, if_neg hb]
  · have hrun := putRaw_run bytes s
    rw [if_pos h0] at hrun
    rw [exec_putRaw, runUnit_ok hrun]

end Sys2Proof.Machine
end

section
/-! PROOFS of the Huffman unit: the canonical codes of `build_table` (spec R161, R162). -/

namespace Sys2Proof

/-- The bits of a number are those of its upper part followed by those of its lower part. -/
theorem natToBits_add (value m n : Nat) : natToBits value (m + n) = natToBits (value / 2 ^ n) m ++ natToBits value n := by
  induction m with
  | zero => rw [Nat.zero_add, natToBits, List.nil_append]
  | succ m ih => rw [Nat.succ_add, natToBits, ih, natToBits, Nat.testBit_div_two_pow, List.cons_append]

theorem natToBits_inj {c c' n : Nat} (hc : c < 2 ^ n) (hc' : c' < 2 ^ n) (h : natToBits c n = natToBits c' n) :
    c = c' := by
  have hval := congrArg bitsToNat h
  rwa [bitsToNat_natToBits, bitsToNat_natToBits, Nat.mod_eq_of_lt hc, Nat.mod_eq_of_lt hc'] at hval

/-- A code word that begins another is not longer, and its number is the upper part of the other's. -/
theorem length_le_and_div_eq_of_prefix {c len c' len' : Nat} (hc : c < 2 ^ len) (hc' : c' < 2 ^ len')
    (h : natToBits c len <+: natToBits c' len') : len ≤ len' ∧ c' / 2 ^ (len' - len) = c := by
  have hle : len ≤ len' := by simpa using h.length_le
  refine ⟨hle, ?_⟩
  have hsplit : len' = len + (len' - len) := by omega
  have hupper : c' / 2 ^ (len' - len) < 2 ^ len :=
    Nat.div_lt_of_lt_mul (by rwa [← Nat.pow_add, Nat.add_comm, ← hsplit])
  rw [hsplit, natToBits_add] at h
  have hword := (List.prefix_of_prefix_length_le h (List.prefix_append _ _) (by simp)).eq_of_length (by simp)
  exact (natToBits_inj hc hupper hword).symm

end Sys2Proof

namespace Sys2Proof.Machine

/-- The running code of spec R161: from the code `c` at length `len` on, each next code is one more, and the running code is
doubled on entering the next length. -/
inductive CanonicalFrom : Nat → Nat → List (Nat × Nat) → Prop where
  | done (c len : Nat) : CanonicalFrom c len []
  | code {c len : Nat} {cs : List (Nat × Nat)} (hc : c < 2 ^ len) (rest : CanonicalFrom (c + 1) len cs) :
      CanonicalFrom c len ((c, len) :: cs)
  | longer {c len : Nat} {cs : List (Nat × Nat)} (rest : CanonicalFrom (2 * c) (len + 1) cs) : CanonicalFrom c len cs

/-- The first code is the running code, shifted left to its length. -/
theorem CanonicalFrom.head_eq {c len : Nat} {cs : List (Nat × Nat)} (h : CanonicalFrom c len cs) :
    ∀ e ∈ cs.head?, len ≤ e.2 ∧ e.1 = c * 2 ^ (e.2 - len) := by
  induction h with
  | done c len => nofun
  | code hc rest ih =>
    intro e he
    obtain rfl := Option.some.inj he
    simp
  | @longer c len cs rest ih =>
    intro e he
    obtain ⟨hle, heq⟩ := ih e he
    have hexp : e.2 - len = e.2 - (len + 1) + 1 := by omega
    refine ⟨by omega, ?_⟩
    rw [heq, hexp, Nat.pow_succ', ← Nat.mul_assoc, Nat.mul_comm c 2]

/-- Each next code is one more, shifted left on entering a longer length (spec R161). -/
theorem CanonicalFrom.next_eq {c len : Nat} {cs : List (Nat × Nat)} (h : CanonicalFrom c len cs) :
    ∀ (i : Nat) (e e' : Nat × Nat), cs[i]? = some e → cs[i + 1]? = some e' →
      e'.1 = (e.1 + 1) * 2 ^ (e'.2 - e.2) := by
  induction h with
  | done c len => simp
  | longer rest ih => exact ih
  | code hc rest ih =>
    intro i e e' he he'
    rw [List.getElem?_cons_succ] at he'
    cases i with
    | succ i => exact ih i e e' he he'
    | zero =>
      rw [← List.head?_eq_getElem?] at he'
      obtain rfl := Option.some.inj he
      exact (rest.head_eq e' he').2

/-- Every code is at least the running code shifted left to its length, and fits its length. -/
theorem CanonicalFrom.mem_bounds {c len : Nat} {cs : List (Nat × Nat)} (h : CanonicalFrom c len cs) :
    ∀ e ∈ cs, len ≤ e.2 ∧ c * 2 ^ (e.2 - len) ≤ e.1 ∧ e.1 < 2 ^ e.2 := by
  induction h with
  | done c len => simp
  | @code c len cs hc rest ih =>
    intro e he
    rcases List.mem_cons.mp he with rfl | he
    · simpa using hc
    · obtain ⟨hle, hlow, hfits⟩ := ih e he
      exact ⟨hle, (Nat.mul_le_mul_right _ (Nat.le_succ c)).trans hlow, hfits⟩
  | @longer c len cs rest ih =>
    intro e he
    obtain ⟨hle, hlow, hfits⟩ := ih e he
    have hexp : e.2 - len = e.2 - (len + 1) + 1 := by omega
    refine ⟨by omega, ?_, hfits⟩
    rwa [hexp, Nat.pow_succ', ← Nat.mul_assoc, Nat.mul_comm c 2]

/-- Every code fits its length (spec R162). -/
theorem CanonicalFrom.code_lt {c len : Nat} {cs : List (Nat × Nat)} (h : CanonicalFrom c len cs) {e : Nat × Nat}
    (he : e ∈ cs) : e.1 < 2 ^ e.2 := by
  obtain ⟨-, -, hfits⟩ := h.mem_bounds e he
  exact hfits

/-- A code stands in front of another: the other is not shorter, and not below the next code shifted left to its
length. -/
def CodeBefore (e e' : Nat × Nat) : Prop := e.2 ≤ e'.2 ∧ (e.1 + 1) * 2 ^ (e'.2 - e.2) ≤ e'.1

theorem CanonicalFrom.pairwise_codeBefore {c len : Nat} {cs : List (Nat × Nat)} (h : CanonicalFrom c len cs) :
    cs.Pairwise CodeBefore := by
  induction h with
  | done c len => exact .nil
  | longer rest ih => exact ih
  | code hc rest ih =>
    refine List.pairwise_cons.mpr ⟨fun e he => ?_, ih⟩
    obtain ⟨hle, hlow, -⟩ := rest.mem_bounds e he
    exact ⟨hle, hlow⟩

/-- A code is not the upper part of one that stands behind it (spec R162). -/
theorem CodeBefore.div_ne {e e' : Nat × Nat} (h : CodeBefore e e') : e'.1 / 2 ^ (e'.2 - e.2) ≠ e.1 := by
  have hlow : e.1 + 1 ≤ e'.1 / 2 ^ (e'.2 - e.2) := (Nat.le_div_iff_mul_le (Nat.two_pow_pos _)).mpr h.2
  omega

/-- Neither of two code words begins the other (spec R162). -/
def PrefixApart (e e' : Nat × Nat) : Prop :=
  ¬ natToBits e.1 e.2 <+: natToBits e'.1 e'.2 ∧ ¬ natToBits e'.1 e'.2 <+: natToBits e.1 e.2

theorem CodeBefore.prefixApart {e e' : Nat × Nat} (h : CodeBefore e e') (he : e.1 < 2 ^ e.2) (he' : e'.1 < 2 ^ e'.2) :
    PrefixApart e e' := by
  refine ⟨fun hpre => h.div_ne (length_le_and_div_eq_of_prefix he he' hpre).2, fun hpre => ?_⟩
  obtain ⟨hle, hdiv⟩ := length_le_and_div_eq_of_prefix he' he hpre
  have hlen : e'.2 = e.2 := Nat.le_antisymm hle h.1
  exact h.div_ne (by simpa [hlen] using hdiv.symm)

/-- No code word of canonical codes begins another (spec R162). -/
theorem CanonicalFrom.pairwise_prefixApart {c len : Nat} {cs : List (Nat × Nat)} (h : CanonicalFrom c len cs) :
    cs.Pairwise PrefixApart :=
  h.pairwise_codeBefore.imp_of_mem fun he he' hbefore =>
    hbefore.prefixApart (h.code_lt he) (h.code_lt he')

/-- The codes of one length are `n` consecutive numbers, refused exactly when they do not all fit it (spec R161, R162). -/
theorem codesOfLength_eq {len c : Nat} (n : Nat) (hc : c ≤ 2 ^ len) :
    codesOfLength len n c =
      if c + n ≤ 2 ^ len then some ((List.range' c n).map fun x => (x, len), c + n) else none := by
  induction n generalizing c with
  | zero => simp [codesOfLength, hc]
  | succ n ih =>
    rw [codesOfLength]
    by_cases hfull : 2 ^ len ≤ c
    · rw [if_pos hfull, if_neg (by omega)]
    · rw [if_neg hfull, ih (by omega), Nat.add_right_comm, Nat.add_assoc c n 1]
      split <;> rfl

/-- The codes of a first length and of those behind it (spec R161). -/
theorem codesFrom_cons {len c : Nat} (n : Nat) (ns : List Nat) (hc : c ≤ 2 ^ len) :
    codesFrom len (n :: ns) c =
      if c + n ≤ 2 ^ len then
        (codesFrom (len + 1) ns (2 * (c + n))).map fun later => (List.range' c n).map (fun x => (x, len)) ++ later
      else none := by
  rw [codesFrom, codesOfLength_eq n hc]
  by_cases hfit : c + n ≤ 2 ^ len
  · rw [if_pos hfit, if_pos hfit]
  · rw [if_neg hfit, if_neg hfit]

theorem codesFrom_cons_eq_some {len c n : Nat} {ns : List Nat} {cs : List (Nat × Nat)} (hc : c ≤ 2 ^ len)
    (h : codesFrom len (n :: ns) c = some cs) :
    ∃ later, c + n ≤ 2 ^ len ∧ codesFrom (len + 1) ns (2 * (c + n)) = some later ∧
      cs = (List.range' c n).map (fun x => (x, len)) ++ later := by
  rw [codesFrom_cons n ns hc] at h
  split at h
  · obtain ⟨later, hlater, rfl⟩ := Option.map_eq_some_iff.mp h
    exact ⟨later, ‹_›, hlater, rfl⟩
  · cases h

theorem CanonicalFrom.range'_append {c len n : Nat} {later : List (Nat × Nat)} (hfit : c + n ≤ 2 ^ len)
    (h : CanonicalFrom (c + n) len later) :
    CanonicalFrom c len ((List.range' c n).map (fun x => (x, len)) ++ later) := by
  induction n generalizing c with
  | zero => exact h
  | succ n ih =>
    have hnext : c + 1 + n = c + (n + 1) := by omega
    exact .code (by omega) (ih (by omega) (by rwa [hnext]))

/-- The codes answered are the canonical ones (spec R161). -/
theorem codesFrom_canonical {len c : Nat} {ns : List Nat} {cs : List (Nat × Nat)} (hc : c ≤ 2 ^ len)
    (h : codesFrom len ns c = some cs) : CanonicalFrom c len cs := by
  induction ns generalizing len c cs with
  | nil =>
    obtain rfl := Option.some.inj h
    exact .done c len
  | cons n ns ih =>
    obtain ⟨later, hfit, hlater, rfl⟩ := codesFrom_cons_eq_some hc h
    exact .range'_append hfit (.longer (ih (by rw [Nat.pow_succ']; omega) hlater))

/-- The lengths ascend as the counts say (spec R161). -/
theorem codesFrom_lengths {k c : Nat} {ns : List Nat} {cs : List (Nat × Nat)} (hc : c ≤ 2 ^ (k + 1))
    (h : codesFrom (k + 1) ns c = some cs) :
    cs.map Prod.snd = (ns.zipIdx k).flatMap fun e => List.replicate e.1 (e.2 + 1) := by
  induction ns generalizing k c cs with
  | nil =>
    obtain rfl := Option.some.inj h
    rfl
  | cons n ns ih =>
    obtain ⟨later, hfit, hlater, rfl⟩ := codesFrom_cons_eq_some hc h
    have hhere : ((List.range' c n).map fun x => (x, k + 1)).map Prod.snd = List.replicate n (k + 1) := by
      simp [Function.comp_def]
    rw [List.map_append, hhere, ih (by rw [Nat.pow_succ']; omega) hlater, List.zipIdx_cons, List.flatMap_cons]

/-- The numbers of length `len` that the codes of the counts `ns`, of lengths `k + 1` on, take up (spec R162). -/
def takenAt (len k : Nat) (ns : List Nat) : Nat := ((ns.zipIdx k).map fun e => e.1 * 2 ^ (len - (e.2 + 1))).sum

@[simp] theorem takenAt_nil (len k : Nat) : takenAt len k [] = 0 := rfl

theorem takenAt_cons (len k n : Nat) (ns : List Nat) :
    takenAt len k (n :: ns) = n * 2 ^ (len - (k + 1)) + takenAt len (k + 1) ns := by
  rw [takenAt, List.zipIdx_cons, List.map_cons, List.sum_cons, takenAt]

/-- Codes exist exactly when the numbers taken up at each length are as many as the length holds (spec R162). -/
theorem codesFrom_isSome_iff {k c : Nat} (ns : List Nat) (hc : c ≤ 2 ^ (k + 1)) :
    (codesFrom (k + 1) ns c).isSome ↔
      ∀ len, k + 1 ≤ len → len ≤ k + ns.length →
        c * 2 ^ (len - (k + 1)) + takenAt len k (ns.take (len - k)) ≤ 2 ^ len := by
  induction ns generalizing k c with
  | nil => exact ⟨fun _ len _ _ => by simp at *; omega, fun _ => rfl⟩
  | cons n ns ih =>
    have hfirst : c * 2 ^ (k + 1 - (k + 1)) + takenAt (k + 1) k ((n :: ns).take (k + 1 - k)) = c + n := by
      simp [takenAt_cons]
    have hlater : ∀ len, k + 2 ≤ len →
        c * 2 ^ (len - (k + 1)) + takenAt len k ((n :: ns).take (len - k)) =
          2 * (c + n) * 2 ^ (len - (k + 2)) + takenAt len (k + 1) (ns.take (len - (k + 1))) := by
      intro len hlen
      have hcount : len - k = len - (k + 1) + 1 := by omega
      have hexp : len - (k + 1) = len - (k + 2) + 1 := by omega
      rw [hcount, List.take_succ_cons, takenAt_cons, hexp, Nat.pow_succ']
      ring
    rw [codesFrom_cons n ns hc]
    by_cases hfit : c + n ≤ 2 ^ (k + 1)
    · rw [if_pos hfit, Option.isSome_map, ih (by rw [Nat.pow_succ']; omega), List.length_cons]
      constructor
      · intro h len hle hlen
        rcases Nat.eq_or_lt_of_le hle with rfl | hlt
        · rwa [hfirst]
        · rw [hlater len hlt]
          exact h len hlt (by omega)
      · intro h len hle hlen
        rw [← hlater len hle]
        exact h len (by omega) (by omega)
    · rw [if_neg hfit]
      refine ⟨nofun, fun h => absurd ?_ hfit⟩
      rw [← hfirst]
      exact h (k + 1) le_rfl (by simp)

theorem buildTable_canonical {counts : Vector Byte 16} {cs : List (Nat × Nat)} (h : buildTable counts = some cs) :
    CanonicalFrom 0 1 cs := codesFrom_canonical (Nat.zero_le _) h

theorem buildTable_lengths {counts : Vector Byte 16} {cs : List (Nat × Nat)} (h : buildTable counts = some cs) :
    cs.map Prod.snd =
      ((counts.toList.map BitVec.toNat).zipIdx.flatMap fun e => List.replicate e.1 (e.2 + 1)) :=
  codesFrom_lengths (Nat.zero_le _) h

/-- There are as many codes as the counts say (spec R34, R161). -/
theorem buildTable_length {counts : Vector Byte 16} {cs : List (Nat × Nat)} (h : buildTable counts = some cs) :
    cs.length = totalOf counts := by
  rw [← List.length_map (f := Prod.snd), buildTable_lengths h, List.length_flatMap]
  simp only [List.length_replicate]
  rw [List.zipIdx_map_fst, totalOf]

/-- The lengths are those of R161, 1 to 16. -/
theorem buildTable_mem_len {counts : Vector Byte 16} {cs : List (Nat × Nat)} (h : buildTable counts = some cs)
    {e : Nat × Nat} (he : e ∈ cs) : 1 ≤ e.2 ∧ e.2 ≤ 16 := by
  refine ⟨((buildTable_canonical h).mem_bounds e he).1, ?_⟩
  have hlen : e.2 ∈ cs.map Prod.snd := List.mem_map_of_mem he
  rw [buildTable_lengths h] at hlen
  obtain ⟨entry, hentry, hrep⟩ := List.mem_flatMap.mp hlen
  have hidx : entry.2 < 16 := by simpa using List.snd_lt_of_mem_zipIdx hentry
  have := List.eq_of_mem_replicate hrep
  omega

/-- `build_table` refuses exactly the over-subscribed tables (spec R162). -/
theorem buildTable_isSome_iff (counts : Vector Byte 16) :
    (buildTable counts).isSome ↔
      ∀ len, 1 ≤ len → len ≤ 16 → takenAt len 0 ((counts.toList.map BitVec.toNat).take len) ≤ 2 ^ len := by
  have h := codesFrom_isSome_iff (k := 0) (c := 0) (counts.toList.map BitVec.toNat) (Nat.zero_le _)
  simpa [buildTable] using h

theorem buildTableProc_run_some {counts : Vector Byte 16} {cs : List (Nat × Nat)} (h : buildTable counts = some cs)
    (s : State) : (buildTableProc counts).run s = .ok cs s := by
  rw [buildTableProc, h]
  rfl

theorem buildTableProc_run_none {counts : Vector Byte 16} (h : buildTable counts = none) (s : State) :
    (buildTableProc counts).run s = .error (.refused .huffmanOversubscribed) s := by
  rw [buildTableProc, h]
  rfl

theorem exec_buildTable (counts : Vector Byte 16) (values : List Byte) (s : State) :
    exec (.buildTable counts values) s = runProc Value.codes (do
      let cs ← buildTableProc counts
      return if values.length = totalOf counts then cs else Config.codesUnstated counts values) s := by rfl

/-- Settles O38: the codes of a table are a run of canonical codes from 0 at length 1. -/
theorem buildTableAssignsCanonicalCodes : Obligations.BuildTableAssignsCanonicalCodes := by
  refine ⟨fun s counts values hvalues => ⟨fun cs hcs => ?_, fun hnone => ?_⟩, buildTable_isSome_iff,
    fun counts cs hcs => ⟨buildTable_lengths hcs, fun c len hhead => ?_, fun i c len c' len' hc hc' => ?_,
      fun i j c len c' len' hij hc hc' => ?_⟩⟩
  · rw [exec_buildTable]
    refine runProc_ok _ ?_
    rw [Proc.bind_run_ok (buildTableProc_run_some hcs s), if_pos hvalues, Proc.pure_run]
  · rw [exec_buildTable]
    exact ⟨_, runProc_error _ (Proc.bind_run_error (buildTableProc_run_none hnone s)), rfl, rfl⟩
  · rw [← List.head?_eq_getElem?] at hhead
    obtain ⟨-, hzero⟩ := (buildTable_canonical hcs).head_eq (c, len) hhead
    simpa using hzero
  · exact (buildTable_canonical hcs).next_eq i (c, len) (c', len') hc hc'
  · have canonical := buildTable_canonical hcs
    obtain ⟨hi, hci⟩ := List.getElem?_eq_some_iff.mp hc
    obtain ⟨hj, hcj⟩ := List.getElem?_eq_some_iff.mp hc'
    have before := List.pairwise_iff_getElem.mp canonical.pairwise_codeBefore i j hi hj hij
    rw [hci, hcj] at before
    exact ⟨canonical.code_lt (List.mem_of_getElem? hc), canonical.code_lt (List.mem_of_getElem? hc'), before.div_ne⟩

end Sys2Proof.Machine
end

section
/-! PROOFS of the Huffman unit: `huff_decode` over the bits of the reader (spec R163, R165). -/

namespace Sys2Proof.Machine

/-- `n + 1` bits taken are `n` bits taken and the next one (spec R133). -/
theorem Reader.takeBits_succ (r : Reader) (n : Nat) :
    r.takeBits (n + 1) =
      (r.takeBits n).bind fun taken => taken.2.nextBit.map fun next => (taken.1 ++ [next.1], next.2) := by
  induction n generalizing r with
  | zero =>
    rw [Reader.takeBits, Reader.takeBits]
    cases h : r.nextBit <;> simp [h, Reader.takeBits]
  | succ n ih =>
    rw [Reader.takeBits]
    conv_rhs => rw [Reader.takeBits]
    cases r.nextBit with
    | none => rfl
    | some next =>
      obtain ⟨b, r1⟩ := next
      simp only [ih r1]
      cases r1.takeBits n with
      | none => rfl
      | some taken => cases h : taken.2.nextBit <;> simp [h]

theorem Reader.takeBits_succ_eq_some {r r' : Reader} {n : Nat} {bits : List Bool}
    (h : r.takeBits (n + 1) = some (bits, r')) :
    ∃ init b r1, r.takeBits n = some (init, r1) ∧ r1.nextBit = some (b, r') ∧ bits = init ++ [b] := by
  rw [Reader.takeBits_succ] at h
  obtain ⟨⟨init, r1⟩, htake, hnext⟩ := Option.bind_eq_some_iff.mp h
  obtain ⟨⟨b, r2⟩, hbit, heq⟩ := Option.map_eq_some_iff.mp hnext
  cases heq
  exact ⟨init, b, r1, htake, hbit, rfl⟩

theorem Reader.length_of_takeBits {r r' : Reader} {n : Nat} {bits : List Bool} (h : r.takeBits n = some (bits, r')) :
    bits.length = n := by
  induction n generalizing bits r' with
  | zero => cases h; rfl
  | succ n ih =>
    obtain ⟨init, b, r1, htake, -, rfl⟩ := Reader.takeBits_succ_eq_some h
    rw [List.length_append, ih htake, List.length_singleton]

/-- A reader that cannot deliver `n` bits ends after some fewer bits. -/
theorem Reader.exists_takeBits_end {r : Reader} {n : Nat} (h : r.takeBits n = none) :
    ∃ m bits r', m < n ∧ r.takeBits m = some (bits, r') ∧ r.takeBits (m + 1) = none := by
  induction n with
  | zero => cases h
  | succ n ih =>
    cases htake : r.takeBits n with
    | none =>
      obtain ⟨m, bits, r', hm, hend⟩ := ih htake
      exact ⟨m, bits, r', by omega, hend⟩
    | some taken => exact ⟨n, taken.1, taken.2, n.lt_succ_self, htake, h⟩

/-- The code words of a slot, as code and length, with their symbols: what `slotCodes` answers. -/
abbrev CodeTable := List ((Nat × Nat) × Byte)

/-- No code word of the table begins these bits. -/
def CodeFree (table : CodeTable) (bits : List Bool) : Prop :=
  ∀ e ∈ table, (natToBits e.1.1 e.1.2).isPrefixOf bits = false

theorem codeFree_iff {table : CodeTable} {bits : List Bool} :
    CodeFree table bits ↔ ∀ e ∈ table, ¬ natToBits e.1.1 e.1.2 <+: bits := by
  simp only [CodeFree, ← List.isPrefixOf_iff_prefix, Bool.not_eq_true]

theorem CodeFree.of_prefix {table : CodeTable} {bits bits' : List Bool} (h : CodeFree table bits')
    (hpre : bits <+: bits') : CodeFree table bits :=
  codeFree_iff.mpr fun e he hcode => codeFree_iff.mp h e he (hcode.trans hpre)

theorem CodeFree.find?_eq_none {table : CodeTable} {bits : List Bool} (h : CodeFree table bits) :
    table.find? (fun e => e.1 == (bitsToNat bits, bits.length)) = none := by
  refine List.find?_eq_none.mpr fun e he heq => codeFree_iff.mp h e he ?_
  rw [eq_of_beq heq, natToBits_bitsToNat]

theorem readBit_run_of_nextBit {s : State} {b : Bool} {r : Reader} (h : s.reader.nextBit = some (b, r)) :
    readBit.run s = .ok b { s with reader := r } := by rw [readBit_run, h]

theorem huffDecodeFrom_zero_run (table : CodeTable) (len c : Nat) (s : State) :
    (huffDecodeFrom table len c 0).run s = .error (.raised .invalidHuffmanCode s.reader.rp) s := rfl

theorem huffDecodeFrom_succ_run_end (table : CodeTable) (len c n : Nat) {s : State}
    (h : s.reader.nextBit = none) :
    (huffDecodeFrom table len c (n + 1)).run s = .error (.raised .unexpectedEndOfStream s.reader.rp) s := by
  refine Proc.bind_run_error ?_
  rw [readBit_run, h]

theorem huffDecodeFrom_succ_run_found {table : CodeTable} {len c : Nat} (n : Nat) {s : State}
    {b : Bool} {r : Reader} {e : (Nat × Nat) × Byte} (h : s.reader.nextBit = some (b, r))
    (hfind : table.find? (fun e => e.1 == (2 * c + b.toNat, len + 1)) = some e) :
    (huffDecodeFrom table len c (n + 1)).run s = .ok e.2 { s with reader := r } := by
  rw [huffDecodeFrom, Proc.bind_run_ok (readBit_run_of_nextBit h)]
  simp only [hfind, Proc.pure_run]

theorem huffDecodeFrom_succ_run_next {table : CodeTable} {len c : Nat} (n : Nat) {s : State}
    {b : Bool} {r : Reader} (h : s.reader.nextBit = some (b, r))
    (hfind : table.find? (fun e => e.1 == (2 * c + b.toNat, len + 1)) = none) :
    (huffDecodeFrom table len c (n + 1)).run s =
      (huffDecodeFrom table (len + 1) (2 * c + b.toNat) n).run { s with reader := r } := by
  rw [huffDecodeFrom, Proc.bind_run_ok (readBit_run_of_nextBit h)]
  simp only [hfind]

/-- Bits that no code word begins are read, and the loop goes on behind them (spec R163). -/
theorem huffDecodeFrom_run_of_codeFree {table : CodeTable} {s : State} {m : Nat} {bits : List Bool}
    {r : Reader} (n : Nat) (h : s.reader.takeBits m = some (bits, r)) (hfree : CodeFree table bits) :
    (huffDecodeFrom table 0 0 (m + n)).run s =
      (huffDecodeFrom table m (bitsToNat bits) n).run { s with reader := r } := by
  induction m generalizing bits r n with
  | zero =>
    cases h
    rw [Nat.zero_add]
    rfl
  | succ m ih =>
    obtain ⟨init, b, r1, htake, hbit, rfl⟩ := Reader.takeBits_succ_eq_some h
    have hfind := hfree.find?_eq_none
    rw [Reader.length_of_takeBits h, bitsToNat_concat] at hfind
    rw [Nat.succ_add_eq_add_succ, ih (n + 1) htake (hfree.of_prefix (List.prefix_append _ _)), bitsToNat_concat]
    exact huffDecodeFrom_succ_run_next n hbit hfind

/-- The code words of a table fit their lengths of 1 to 16, and none begins another's (spec R161, R162). -/
structure PrefixFree (table : CodeTable) : Prop where
  len_bounds : ∀ e ∈ table, 1 ≤ e.1.2 ∧ e.1.2 ≤ 16
  code_lt : ∀ e ∈ table, e.1.1 < 2 ^ e.1.2
  eq_of_prefix : ∀ e ∈ table, ∀ e' ∈ table, natToBits e.1.1 e.1.2 <+: natToBits e'.1.1 e'.1.2 → e = e'

theorem buildTable_prefixFree {counts : Vector Byte 16} {cs : List (Nat × Nat)} (h : buildTable counts = some cs)
    (values : List Byte) : PrefixFree (cs.zip values) where
  len_bounds e he := buildTable_mem_len h (List.of_mem_zip he).1
  code_lt e he := (buildTable_canonical h).code_lt (List.of_mem_zip he).1
  eq_of_prefix e he e' he' hpre := by
    obtain ⟨i, hi, rfl⟩ := List.mem_iff_getElem.mp he
    obtain ⟨j, hj, rfl⟩ := List.mem_iff_getElem.mp he'
    have apart := List.pairwise_iff_getElem.mp (buildTable_canonical h).pairwise_prefixApart
    have hi' := List.lt_length_left_of_zip hi
    have hj' := List.lt_length_left_of_zip hj
    simp only [List.getElem_zip] at hpre
    rcases Nat.lt_trichotomy i j with hij | rfl | hji
    · exact absurd hpre (apart i j hi' hj' hij).1
    · rfl
    · exact absurd hpre (apart j i hj' hi' hji).2

/-- A code word of the table is looked up by its bits. -/
theorem PrefixFree.find?_code {table : CodeTable} (h : PrefixFree table) {e : (Nat × Nat) × Byte}
    (he : e ∈ table) : table.find? (fun e' => e'.1 == e.1) = some e := by
  cases hfind : table.find? (fun e' => e'.1 == e.1) with
  | none => exact absurd (BEq.refl e.1) (List.find?_eq_none.mp hfind e he)
  | some e' =>
    have hcode : e'.1 = e.1 := by simpa using List.find?_some hfind
    rw [h.eq_of_prefix e' (List.mem_of_find?_eq_some hfind) e he (by rw [hcode])]

/-- Less than a code word begins with no code word (spec R162). -/
theorem PrefixFree.codeFree_of_append {table : CodeTable} (h : PrefixFree table)
    {e : (Nat × Nat) × Byte} (he : e ∈ table) {init : List Bool} {b : Bool}
    (hword : natToBits e.1.1 e.1.2 = init ++ [b]) : CodeFree table init := by
  refine codeFree_iff.mpr fun e' he' hpre => ?_
  obtain rfl := h.eq_of_prefix e' he' e he (hword ▸ hpre.trans (List.prefix_append _ _))
  have hlen := hpre.length_le
  rw [hword] at hlen
  simp at hlen

/-- `huff_decode` reads a code word of the table and answers its symbol (spec R163). -/
theorem PrefixFree.huffDecodeFrom_run {table : CodeTable} (h : PrefixFree table)
    {e : (Nat × Nat) × Byte} (he : e ∈ table) {s : State} {r : Reader}
    (htake : s.reader.takeBits e.1.2 = some (natToBits e.1.1 e.1.2, r)) :
    (huffDecodeFrom table 0 0 16).run s = .ok e.2 { s with reader := r } := by
  obtain ⟨hpos, hmax⟩ := h.len_bounds e he
  obtain ⟨m, hm⟩ := Nat.exists_eq_succ_of_ne_zero (Nat.one_le_iff_ne_zero.mp hpos)
  have hcode : bitsToNat (natToBits e.1.1 e.1.2) = e.1.1 := by
    rw [bitsToNat_natToBits, Nat.mod_eq_of_lt (h.code_lt e he)]
  have hsucc : s.reader.takeBits (m + 1) = some (natToBits e.1.1 e.1.2, r) := hm ▸ htake
  obtain ⟨init, b, r1, hinit, hbit, hword⟩ := Reader.takeBits_succ_eq_some hsucc
  have hnum : 2 * bitsToNat init + b.toNat = e.1.1 := by rw [← bitsToNat_concat, ← hword, hcode]
  have hfind : table.find? (fun e' => e'.1 == (2 * bitsToNat init + b.toNat, m + 1)) = some e := by
    rw [hnum, ← Nat.succ_eq_add_one, ← hm]
    exact h.find?_code he
  have hfuel : 16 = m + (15 - m + 1) := by omega
  rw [hfuel, huffDecodeFrom_run_of_codeFree (15 - m + 1) hinit (h.codeFree_of_append he hword)]
  exact huffDecodeFrom_succ_run_found (15 - m) hbit hfind

/-- 16 bits that no code word begins (spec R163). -/
theorem huffDecodeFrom_run_invalid {table : CodeTable} {s : State} {bits : List Bool} {r : Reader}
    (h : s.reader.takeBits 16 = some (bits, r)) (hfree : CodeFree table bits) :
    (huffDecodeFrom table 0 0 16).run s = .error (.raised .invalidHuffmanCode r.rp) { s with reader := r } :=
  (huffDecodeFrom_run_of_codeFree 0 h hfree).trans (huffDecodeFrom_zero_run table 16 (bitsToNat bits) _)

/-- Bits that end before a code word is complete (spec R163). -/
theorem huffDecodeFrom_run_end {table : CodeTable} {s : State} {n : Nat} {bits : List Bool}
    {r : Reader} (hn : n < 16) (h : s.reader.takeBits n = some (bits, r)) (hend : s.reader.takeBits (n + 1) = none)
    (hfree : CodeFree table bits) :
    (huffDecodeFrom table 0 0 16).run s = .error (.raised .unexpectedEndOfStream r.rp) { s with reader := r } := by
  have hbit : r.nextBit = none := by
    rw [Reader.takeBits_succ, h] at hend
    exact Option.map_eq_none_iff.mp hend
  have hfuel : 16 = n + (15 - n + 1) := by omega
  rw [hfuel, huffDecodeFrom_run_of_codeFree _ h hfree]
  exact huffDecodeFrom_succ_run_end table n _ _ hbit

theorem slotCodes_run_valid {slot : HuffSlot} {cs : List (Nat × Nat)} (hvalid : slot.valid = true)
    (hcs : buildTable slot.counts = some cs) (s : State) : (slotCodes slot).run s = .ok (cs.zip slot.values) s := by
  rw [slotCodes_run, if_pos hvalid, hcs]

theorem slotCodes_run_invalid {slot : HuffSlot} (h : slot.valid = false) (s : State) :
    (slotCodes slot).run s = .ok [] s := by
  rw [slotCodes_run, if_neg (by rw [h]; exact Bool.false_ne_true)]

theorem exec_huffDecode (tc : TableClass) (th : Slot) (s : State) :
    exec (.huffDecode tc th) s = runProc Value.byte (huffDecode tc th) s := by rfl

section Decode
variable {s : State} {tc : TableClass} {th : Slot} {table : CodeTable}
  (h : (slotCodes (s.image.ht tc th)).run s = .ok table s)
include h

theorem huffDecode_run : (huffDecode tc th).run s = (huffDecodeFrom table 0 0 16).run s := by
  rw [huffDecode, Proc.get_bind_run, Proc.bind_run_ok h]
  rfl

theorem exec_huffDecode_code (hprefix : PrefixFree table) {e : (Nat × Nat) × Byte} (he : e ∈ table) {r : Reader}
    (htake : s.reader.takeBits e.1.2 = some (natToBits e.1.1 e.1.2, r)) :
    exec (.huffDecode tc th) s = .next ({ s with reader := r }.returning (.byte e.2)) := by
  rw [exec_huffDecode]
  exact runProc_ok _ ((huffDecode_run h).trans (hprefix.huffDecodeFrom_run he htake))

theorem exec_huffDecode_invalid {bits : List Bool} {r : Reader} (htake : s.reader.takeBits 16 = some (bits, r))
    (hfree : CodeFree table bits) :
    ∃ t, exec (.huffDecode tc th) s = .next t ∧ t.failedWith .invalidHuffmanCode := by
  rw [exec_huffDecode]
  exact ⟨_, runProc_error _ ((huffDecode_run h).trans (huffDecodeFrom_run_invalid htake hfree)), rfl, rfl⟩

theorem exec_huffDecode_end {n : Nat} {bits : List Bool} {r : Reader} (hn : n < 16)
    (htake : s.reader.takeBits n = some (bits, r)) (hend : s.reader.takeBits (n + 1) = none)
    (hfree : CodeFree table bits) :
    ∃ t, exec (.huffDecode tc th) s = .next t ∧ t.failedWith .unexpectedEndOfStream := by
  rw [exec_huffDecode]
  exact ⟨_, runProc_error _ ((huffDecode_run h).trans (huffDecodeFrom_run_end hn htake hend hfree)), rfl, rfl⟩

end Decode

/-- Settles O39: a code word, 16 bits without one, an early end; a table that is not valid is the empty one. -/
theorem huffDecodeReadsOneCode : Obligations.HuffDecodeReadsOneCode := by
  refine ⟨fun s tc th cs c len sym r hvalid hcs hmem htake => ?_, fun s tc th cs bits r hvalid hcs htake hfree => ?_,
    fun s tc th cs n bits r hvalid hcs hn htake hend hfree => ?_,
    fun s tc th hvalid => ⟨fun hsome => ?_, fun hnone => ?_⟩⟩
  · exact exec_huffDecode_code (slotCodes_run_valid hvalid hcs s) (buildTable_prefixFree hcs _) hmem htake
  · exact exec_huffDecode_invalid (slotCodes_run_valid hvalid hcs s) htake hfree
  · exact exec_huffDecode_end (slotCodes_run_valid hvalid hcs s) hn htake hend hfree
  · obtain ⟨⟨bits, r⟩, htake⟩ := Option.ne_none_iff_exists'.mp hsome
    exact exec_huffDecode_invalid (slotCodes_run_invalid hvalid s) htake nofun
  · obtain ⟨n, bits, r, hn, htake, hend⟩ := Reader.exists_takeBits_end hnone
    exact exec_huffDecode_end (slotCodes_run_invalid hvalid s) hn htake hend nofun

end Sys2Proof.Machine
end

section
/-! PROOFS of the Huffman unit: what `huff_encode` writes, `huff_decode` reads (spec R164, R168). -/

namespace Sys2Proof.Machine

/-- A legal valid slot has a code for each of its values (spec R34, R162). -/
theorem HuffSlot.exists_codes_of_ok {slot : HuffSlot} (hvalid : slot.valid = true) (hok : slot.ok = true) :
    ∃ cs, buildTable slot.counts = some cs ∧ (cs.zip slot.values).map Prod.snd = slot.values := by
  obtain ⟨hlength, hsome⟩ : slot.values.length = totalOf slot.counts ∧ (buildTable slot.counts).isSome := by
    simpa [HuffSlot.ok, hvalid] using hok
  obtain ⟨cs, hcs⟩ := Option.isSome_iff_exists.mp hsome
  exact ⟨cs, hcs, List.map_snd_zip (by rw [buildTable_length hcs, hlength])⟩

/-- The code word of a symbol that occurs in the table (spec R164). -/
theorem HuffSlot.codeOf_eq {slot : HuffSlot} {cs : List (Nat × Nat)} {sym : Byte} {e : (Nat × Nat) × Byte}
    (hvalid : slot.valid = true) (hcs : buildTable slot.counts = some cs)
    (hfind : (cs.zip slot.values).find? (fun e => e.2 == sym) = some e) :
    slot.codeOf sym = some (natToBits e.1.1 e.1.2) := by
  rw [HuffSlot.codeOf, if_pos hvalid, hcs]
  simp only [hfind, Option.map_some]

theorem exec_huffEncode (tc : TableClass) (th : Slot) (sym : Byte) (s : State) :
    exec (.huffEncode tc th sym) s = runUnit (huffEncode tc th sym) s := by rfl

section Encode
variable {s : State} {tc : TableClass} {th : Slot} {table : CodeTable} {sym : Byte}
  (h : (slotCodes (s.image.ht tc th)).run s = .ok table s)
include h

theorem exec_huffEncode_code {e : (Nat × Nat) × Byte} (hfind : table.find? (fun e => e.2 == sym) = some e)
    (hlen : e.1.2 ≤ 16) :
    exec (.huffEncode tc th sym) s =
      .next ({ s with writer := (natToBits e.1.1 e.1.2).foldl Writer.writeBit s.writer }.returning .none) := by
  rw [exec_huffEncode]
  refine runUnit_ok ?_
  rw [huffEncode, Proc.get_bind_run, Proc.bind_run_ok h, hfind, writeBits_run, if_neg (Nat.not_lt.mpr hlen)]
  rfl

theorem exec_huffEncode_missing (hfind : table.find? (fun e => e.2 == sym) = none) :
    ∃ t, exec (.huffEncode tc th sym) s = .next t ∧ t.failedWith .invalidHuffmanCode := by
  have hrun : (huffEncode tc th sym).run s = .error (.raised .invalidHuffmanCode s.work.mcu) s := by
    rw [huffEncode, Proc.get_bind_run, Proc.bind_run_ok h, hfind]
    rfl
  exact ⟨_, (exec_huffEncode tc th sym s).trans (runUnit_error hrun), rfl, rfl⟩

end Encode

/-- Settles O40: the code word written stands in the table, of whose code words none begins another. -/
theorem huffmanCodesRoundTrip : Obligations.HuffmanCodesRoundTrip := by
  refine ⟨fun s tc th sym hvalid hok hmem => ?_, fun s tc th sym hok hmissing => ?_⟩
  · obtain ⟨cs, hcs, hvalues⟩ := HuffSlot.exists_codes_of_ok hvalid hok
    have hprefix := buildTable_prefixFree hcs (s.image.ht tc th).values
    rw [← hvalues] at hmem
    obtain ⟨e0, he0, hsym0⟩ := List.mem_map.mp hmem
    obtain ⟨e, hfind⟩ : ∃ e, (cs.zip (s.image.ht tc th).values).find? (fun e => e.2 == sym) = some e :=
      Option.isSome_iff_exists.mp (List.find?_isSome.mpr ⟨e0, he0, by simpa using hsym0⟩)
    have he := List.mem_of_find?_eq_some hfind
    have hsym : e.2 = sym := by simpa using List.find?_some hfind
    obtain ⟨hpos, hmax⟩ := hprefix.len_bounds e he
    refine ⟨natToBits e.1.1 e.1.2, HuffSlot.codeOf_eq hvalid hcs hfind, by rwa [length_natToBits],
      by rwa [length_natToBits], exec_huffEncode_code (slotCodes_run_valid hvalid hcs s) hfind hmax,
      fun s' r hslot htake => ?_⟩
    rw [length_natToBits] at htake
    rw [← hsym]
    exact exec_huffDecode_code (hslot ▸ slotCodes_run_valid hvalid hcs s') hprefix he htake
  · cases hvalid : (s.image.ht tc th).valid with
    | false => exact exec_huffEncode_missing (slotCodes_run_invalid hvalid s) rfl
    | true =>
      obtain ⟨cs, hcs, -⟩ := HuffSlot.exists_codes_of_ok hvalid hok
      have habsent : sym ∉ (s.image.ht tc th).values := hmissing.resolve_left (by simp [hvalid])
      refine exec_huffEncode_missing (slotCodes_run_valid hvalid hcs s) ?_
      refine List.find?_eq_none.mpr fun e he heq => habsent ?_
      exact eq_of_beq heq ▸ (List.of_mem_zip he).2

end Sys2Proof.Machine
end

section
/-! PROOFS of the decoder: what stands at the read cursor, and `read_segment` over it (spec R62, R83, R183). -/

namespace Sys2Proof

/-- A big-endian pair is the field it was made of (spec R62). -/
theorem be16_extract (h : Half) : be16 (h.extractLsb' 8 8) (h.extractLsb' 0 8) = h := by
  apply BitVec.eq_of_toNat_eq
  have hlt := h.isLt
  rw [be16, BitVec.toNat_append, BitVec.extractLsb'_toNat, BitVec.extractLsb'_toNat, Nat.shiftRight_zero,
    Nat.shiftRight_eq_div_pow, ← Nat.shiftLeft_add_eq_or_of_lt (Nat.mod_lt _ (by decide)), Nat.shiftLeft_eq]
  omega

end Sys2Proof

namespace Sys2Proof.Machine

theorem Reader.holds_iff (r : Reader) (bytes : List Byte) :
    r.holds bytes = true ↔ ∃ rest, r.inp.drop r.rp = bytes ++ rest := by
  rw [Reader.holds, List.isPrefixOf_iff_prefix]
  exact exists_congr fun _ => eq_comm

/-- A raised error is what the command ended with (spec R325). -/
theorem runProc_raised {α : Type} (value : α → Value) {p : Proc α} {s s' : State} {kind : ErrKind} {pos : Nat}
    (h : p.run s = .error (.raised kind pos) s') : ∃ t, runProc value p s = .next t ∧ t.failedWith kind :=
  ⟨takeError kind pos s', runProc_error value h, rfl, rfl⟩

theorem runUnit_raised {p : Proc Unit} {s s' : State} {kind : ErrKind} {pos : Nat}
    (h : p.run s = .error (.raised kind pos) s') : ∃ t, runUnit p s = .next t ∧ t.failedWith kind :=
  runProc_raised _ h

/-- `read_segment` over a whole segment: its payload, and the reader behind it (spec R183). -/
theorem readSegment_run_of_holdsSegment {s : State} {payload : List Byte} (h : s.reader.holdsSegment payload = true) :
    readSegment.run s = .ok payload (s.pastSegment payload) := by
  rw [Reader.holdsSegment, Bool.and_eq_true, decide_eq_true_eq, Reader.holds_iff] at h
  obtain ⟨hmax, rest, hdrop⟩ := h
  generalize hlen : BitVec.ofNat 16 (payload.length + 2) = len at *
  have hls : len.toNat = payload.length + 2 := by
    rw [← hlen, BitVec.toNat_ofNat]
    omega
  have hpair : s.reader.holds [len.extractLsb' 8 8, len.extractLsb' 0 8] = true :=
    (Reader.holds_iff _ _).mpr ⟨payload ++ rest, by rw [hdrop, natBytes16, hlen]; exact List.append_assoc _ _ _⟩
  obtain ⟨hb0, hb1⟩ := (Reader.holds_pair_iff _ _ _).mp hpair
  have hpayload : (s.reader.inp.drop (s.reader.rp + 2)).take payload.length = payload := by
    rw [← List.drop_drop, hdrop]
    exact List.take_left
  have hin : s.reader.rp + (payload.length + 2) ≤ s.reader.inlen := by
    have hlength := congrArg List.length hdrop
    simp only [List.length_drop, List.length_append, natBytes16, be16Bytes, List.length_cons, List.length_nil]
      at hlength
    rw [Reader.inlen]
    omega
  rw [readSegment_run s _ _ hb0 hb1, be16_extract, hls]
  simp only [if_neg (show ¬ payload.length + 2 < 2 by omega), if_neg (Nat.not_lt.mpr hin), Nat.add_sub_cancel,
    hpayload]
  rfl

theorem exec_readSegment (s : State) : exec .readSegment s = runProc Value.bytes readSegment s := by rfl

/-- Settles O20: one run for each thing that can stand at the read cursor. -/
theorem readSegmentAnswersThePayload : Obligations.ReadSegmentAnswersThePayload := by
  refine ⟨fun s payload h => ?_, fun s hshort => ?_, fun s b0 b1 h hlow => ?_, fun s b0 b1 h hle hends => ?_⟩
  · exact (exec_readSegment s).trans (runProc_ok _ (readSegment_run_of_holdsSegment h))
  · have hb1 : s.reader.byte? (s.reader.rp + 1) = none := List.getElem?_eq_none (Nat.lt_succ_iff.mp hshort)
    rw [exec_readSegment]
    exact runProc_raised _ (readSegment_run_short s hb1)
  · obtain ⟨hb0, hb1⟩ := (Reader.holds_pair_iff _ _ _).mp h
    rw [exec_readSegment]
    exact runProc_raised _ ((readSegment_run s b0 b1 hb0 hb1).trans (if_pos hlow))
  · obtain ⟨hb0, hb1⟩ := (Reader.holds_pair_iff _ _ _).mp h
    rw [exec_readSegment]
    exact runProc_raised _
      ((readSegment_run s b0 b1 hb0 hb1).trans ((if_neg (Nat.not_lt.mpr hle)).trans (if_pos hends)))

end Sys2Proof.Machine
end

section
/-! PROOFS of the decoder: the markers SOI, EOI and DRI and the captured segments (spec R181, R184 to R186, R192,
R194). -/

namespace Sys2Proof.Machine

/-- The first two bytes of the buffer. -/
theorem Reader.byte?_zero_one_iff (r : Reader) (a b : Byte) :
    r.byte? 0 = some a ∧ r.byte? 1 = some b ↔ ∃ rest, r.inp = a :: b :: rest := by
  rw [Reader.byte?, Reader.byte?]
  match r.inp with
  | [] => simp
  | [c] => simp
  | c :: d :: rest => simp

/-- `check_soi`: by the first two bytes of the buffer (spec R181). -/
theorem checkSoi_run (s : State) :
    checkSoi.run s =
      if s.reader.inlen < 2 then .error (.raised .unexpectedEndOfStream s.reader.inlen) s
      else if s.reader.byte? 0 = some 0xFF ∧ s.reader.byte? 1 = some 0xD8 then
        .ok () { s with reader := { s.reader with rp := 2 }, image := { s.image with fSoi := true } }
      else .error (.raised .invalidMarker 0) s := by
  rw [checkSoi, Proc.get_bind_run]
  by_cases hlen : s.reader.inlen < 2
  · simp only [if_pos hlen, raise_run]
  · by_cases hsoi : s.reader.byte? 0 = some 0xFF ∧ s.reader.byte? 1 = some 0xD8
    · obtain ⟨h0, h1⟩ := hsoi
      simp only [hlen, h0, h1, if_false, ne_eq, not_true, decide_false, Bool.or_self, Bool.false_eq_true, and_self,
        if_true]
      rfl
    · have hcond : (decide (s.reader.byte? 0 ≠ some 0xFF) || decide (s.reader.byte? 1 ≠ some 0xD8)) = true := by
        rw [Bool.or_eq_true, decide_eq_true_eq, decide_eq_true_eq]
        exact not_and_or.mp hsoi
      simp only [if_neg hlen, if_pos hcond, if_neg hsoi, raise_run]

theorem exec_checkSoi (s : State) : exec .checkSoi s = runUnit checkSoi s := by rfl

/-- Settles O16: `check_soi` by the length of the buffer, then by its first two bytes. -/
theorem soiOpensTheStream : Obligations.SoiOpensTheStream := by
  refine ⟨fun s rest hinp => ?_, fun s hshort => ?_, fun s hlen hother => ?_⟩
  · have hlen : ¬ s.reader.inlen < 2 := by simp [Reader.inlen, hinp]
    have hsoi := (Reader.byte?_zero_one_iff s.reader _ _).mpr ⟨rest, hinp⟩
    exact (exec_checkSoi s).trans (runUnit_ok ((checkSoi_run s).trans ((if_neg hlen).trans (if_pos hsoi))))
  · rw [exec_checkSoi]
    exact runUnit_raised ((checkSoi_run s).trans (if_pos hshort))
  · have hnosoi : ¬ (s.reader.byte? 0 = some 0xFF ∧ s.reader.byte? 1 = some 0xD8) :=
      fun h => ((Reader.byte?_zero_one_iff _ _ _).mp h).elim hother
    rw [exec_checkSoi]
    exact runUnit_raised ((checkSoi_run s).trans ((if_neg (Nat.not_lt.mpr hlen)).trans (if_neg hnosoi)))

/-- EOI: by whether a scan was decoded (spec R194). -/
theorem eoiRule_run (s : State) :
    eoiRule.run s =
      if s.image.scans = [] then .error (.raised .invalidMarker s.walk.mpos) s
      else .ok () { s with image := { s.image with fEoi := true } } := by
  rw [eoiRule, Proc.get_bind_run, Image.nscan]
  by_cases hnone : s.image.scans = []
  · rw [if_pos hnone, if_pos (List.length_eq_zero_iff.mpr hnone), misplacedMarker_run]
  · rw [if_neg hnone, if_neg (mt List.length_eq_zero_iff.mp hnone), acceptEoi, modifyImage_run]

theorem exec_eoi (s : State) : exec .eoi s = runUnit eoiRule s := by rfl

/-- Settles O17: the two branches of the rule. -/
theorem eoiNeedsAScan : Obligations.EoiNeedsAScan := by
  intro s
  rw [exec_eoi]
  exact ⟨fun hscan => runUnit_ok ((eoiRule_run s).trans (if_neg hscan)),
    fun hnone => runUnit_raised ((eoiRule_run s).trans (if_pos hnone))⟩

/-- The rows of APPn, COM and the other non-essential markers capture their segment under their code byte (spec R184 to
R186). -/
theorem exec_captured {s : State} {n4 : BitVec 4} {n3 : BitVec 3} {n2 : BitVec 2} {n1 : BitVec 1} {i : Instr} {m : Byte}
    (h : (i, m) ∈ [(Instr.app n4, (0xE0 + n4.zeroExtend 8 : Byte)), (.com, 0xFE), (.dnl, 0xDC), (.dhp, 0xDE),
      (.exp, 0xDF), (.jpgLow n3, 0xF0 + n3.zeroExtend 8), (.jpgMid n2, 0xF8 + n2.zeroExtend 8),
      (.jpgHigh n1, 0xFC + n1.zeroExtend 8)]) :
    exec i s = runUnit (capture m) s := by
  simp only [List.mem_cons, Prod.mk.injEq, List.not_mem_nil, or_false] at h
  obtain ⟨rfl, rfl⟩ | ⟨rfl, rfl⟩ | ⟨rfl, rfl⟩ | ⟨rfl, rfl⟩ | ⟨rfl, rfl⟩ | ⟨rfl, rfl⟩ | ⟨rfl, rfl⟩ | ⟨rfl, rfl⟩ := h <;>
    rfl

/-- Settles O21: a capture ends as its `read_segment` does, and leaves its status as that left it. -/
theorem capturedSegmentsAreKept : Obligations.CapturedSegmentsAreKept := by
  intro s n4 n3 n2 n1 i m hrow
  have hrun := capture_run m s
  rw [exec_captured hrow]
  refine ⟨fun payload h => ?_, fun t kind hread hfailed => ?_⟩
  · rw [readSegment_run_of_holdsSegment h] at hrun
    exact runUnit_ok hrun
  · rw [exec_readSegment] at hread
    obtain ⟨payload, s', hok, rfl⟩ | ⟨e, s', herror, rfl⟩ := runProc_cases hread
    · rw [hok] at hrun
      exact ⟨_, runUnit_ok hrun, hfailed⟩
    · rw [herror] at hrun
      exact ⟨_, runUnit_error hrun, hfailed⟩

/-- DRI with a payload of two bytes (spec R192). -/
theorem driRule_run_pair {s : State} {b1 b0 : Byte} (h : s.reader.holdsSegment [b1, b0] = true) :
    driRule.run s = .ok () { s.pastSegment [b1, b0] with image := { s.image with ri := be16 b1 b0 } } := by
  rw [driRule, Proc.bind_run_ok (readSegment_run_of_holdsSegment h)]
  rfl

/-- DRI with a payload of another size (spec R192). -/
theorem driRule_run_badLength {s : State} {payload : List Byte} (h : s.reader.holdsSegment payload = true)
    (hne : payload.length ≠ 2) :
    driRule.run s = .error (.raised .invalidSegmentLength s.reader.rp) (s.pastSegment payload) := by
  rw [driRule, Proc.bind_run_ok (readSegment_run_of_holdsSegment h)]
  split
  · exact absurd rfl hne
  · rw [badLength_run, State.pastSegment_walk_lpos]

theorem exec_dri (s : State) : exec .dri s = runUnit driRule s := by rfl

/-- Settles O25: the two branches of the rule. -/
theorem driRecordsTheInterval : Obligations.DriRecordsTheInterval := by
  refine ⟨fun s ri h => ?_, fun s payload h hne => ?_⟩
  · have hrun := driRule_run_pair h
    rw [be16_extract] at hrun
    exact (exec_dri s).trans (runUnit_ok hrun)
  · rw [exec_dri]
    exact runUnit_raised (driRule_run_badLength h hne)

end Sys2Proof.Machine
end

section
/-! PROOFS of the decoder: the magnitude functions (spec R202, R253, R254). -/

namespace Sys2Proof

@[simp] theorem bitlen_zero : bitlen 0 = 0 := rfl

/-- The number of bits of a number lies between the two powers of two around it (spec R7). -/
theorem bitlen_bounds {n : Nat} (h : n ≠ 0) : 1 ≤ bitlen n ∧ 2 ^ (bitlen n - 1) ≤ n ∧ n < 2 ^ bitlen n := by
  rw [bitlen, if_neg h, Nat.add_sub_cancel]
  exact ⟨Nat.le_add_left 1 _, Nat.log2_self_le h, Nat.lt_log2_self⟩

end Sys2Proof

namespace Sys2Proof.Machine

theorem size_neg (v : Int) : size (-v) = size v := by rw [size, size, Int.natAbs_neg]

theorem size_bounds {v : Int} (h : v ≠ 0) : 1 ≤ size v ∧ 2 ^ (size v - 1) ≤ v.natAbs ∧ v.natAbs < 2 ^ size v :=
  bitlen_bounds (Int.natAbs_ne_zero.mpr h)

/-- Half of the range of the magnitude bits. -/
theorem two_pow_eq_double {n : Nat} (h : 1 ≤ n) : 2 ^ n = 2 * 2 ^ (n - 1) := by
  rw [← Nat.pow_succ', Nat.succ_eq_add_one, Nat.sub_add_cancel h]

theorem extend_zero (bits : Nat) : extend bits 0 = 0 := rfl

theorem extend_low {bits n : Nat} (hn : 1 ≤ n) (h : bits < 2 ^ (n - 1)) :
    extend bits n = (bits : Int) - (2 ^ n : Nat) + 1 := by
  rw [extend, if_neg (Nat.ne_of_gt hn), if_pos h]

theorem extend_high {bits n : Nat} (hn : 1 ≤ n) (h : 2 ^ (n - 1) ≤ bits) : extend bits n = bits := by
  rw [extend, if_neg (Nat.ne_of_gt hn), if_neg (Nat.not_lt.mpr h)]

/-- The magnitude bits of a positive value are the value, in the upper half of the range (spec R254). -/
theorem magbits_size_of_pos {v : Int} (h : 0 < v) :
    (magbits v (size v) : Int) = v ∧ 2 ^ (size v - 1) ≤ magbits v (size v) ∧ magbits v (size v) < 2 ^ size v := by
  obtain ⟨-, hlow, hhigh⟩ := size_bounds h.ne'
  rw [magbits, if_pos h.le]
  omega

/-- The magnitude bits of a negative value, in the lower half of the range (spec R254). -/
theorem magbits_size_of_neg {v : Int} (h : v < 0) :
    (magbits v (size v) : Int) = v + (2 ^ size v : Nat) - 1 ∧ magbits v (size v) < 2 ^ (size v - 1) := by
  obtain ⟨hpos, hlow, hhigh⟩ := size_bounds h.ne
  have hdouble := two_pow_eq_double hpos
  rw [magbits, if_neg (Int.not_le.mpr h)]
  omega

/-- The magnitude bits fit the size, and `extend` gives the value back (spec R202). -/
theorem extend_magbits (v : Int) :
    magbits v (size v) < 2 ^ size v ∧ extend (magbits v (size v)) (size v) = v := by
  rcases lt_trichotomy v 0 with hneg | rfl | hpos
  · obtain ⟨hvalue, hlow⟩ := magbits_size_of_neg hneg
    obtain ⟨hsize, -, -⟩ := size_bounds hneg.ne
    refine ⟨hlow.trans_le (Nat.pow_le_pow_right (by decide) (Nat.sub_le _ _)), ?_⟩
    rw [extend_low hsize hlow, hvalue]
    omega
  · decide
  · obtain ⟨hvalue, hhalf, hfits⟩ := magbits_size_of_pos hpos
    obtain ⟨hsize, -, -⟩ := size_bounds hpos.ne'
    exact ⟨hfits, by rw [extend_high hsize hhalf, hvalue]⟩

theorem exec_size (v : Int) (s : State) : exec (.size v) s = .next (s.returning (.nat (size v))) := by rfl

/-- The procedure `magbits` on the size its rule requires (spec R254). -/
theorem exec_magbits_size (v : Int) (s : State) :
    exec (.magbits v (size v)) s = .next (s.returning (.nat (magbits v (size v)))) := by
  show execMagbits v (size v) s = _
  rw [execMagbits, if_pos rfl, runPure_eq]

/-- The procedure `extend` on the bits its rule states a result for (spec R202). -/
theorem exec_extend {bits n : Nat} (hn : n ≤ 15) (hbits : bits < 2 ^ n) (s : State) :
    exec (.extend bits n) s = .next (s.returning (.int (extend bits n))) := by
  show execExtend bits n s = _
  rw [execExtend, if_pos (by rw [decide_eq_true hn, decide_eq_true hbits]; rfl), runPure_eq]

/-- Settles O41: the laws of the three functions, and the procedures that answer them. -/
theorem magnitudeBitsRoundTrip : Obligations.MagnitudeBitsRoundTrip := by
  refine ⟨fun s v => ⟨exec_size v s, exec_magbits_size v s⟩, fun s bits n hn hbits => exec_extend hn hbits s,
    rfl, fun v => size_bounds, size_neg, extend_magbits, fun v hpos => ?_, fun v => magbits_size_of_neg,
    extend_zero 0, fun bits n => extend_low, fun bits n hn hhalf _ => extend_high hn hhalf⟩
  obtain ⟨hvalue, hhalf, -⟩ := magbits_size_of_pos hpos
  exact ⟨hvalue, hhalf⟩

end Sys2Proof.Machine
end

section
/-! PROOFS of the encoder: the segment emitters (spec R243 to R249), `emit_restart` and `finalize` (R256, R257). -/

namespace Sys2Proof.Machine

/-- The state after these bytes were appended to `OUT`. -/
def State.emitted (s : State) (bytes : List Byte) : State :=
  { s with writer := { s.writer with out := s.writer.out ++ bytes } }

@[simp] theorem State.emitted_image (s : State) (bytes : List Byte) : (s.emitted bytes).image = s.image := rfl

@[simp] theorem State.emitted_wcnt (s : State) (bytes : List Byte) :
    (s.emitted bytes).writer.wcnt = s.writer.wcnt := rfl

@[simp] theorem State.emitted_nil (s : State) : s.emitted [] = s := by rw [State.emitted, List.append_nil]

@[simp] theorem State.emitted_emitted (s : State) (bytes more : List Byte) :
    (s.emitted bytes).emitted more = s.emitted (bytes ++ more) := by
  simp only [State.emitted, List.append_assoc]

theorem putRaw_run_emitted (bytes : List Byte) {s : State} (h : s.writer.wcnt = 0) :
    (putRaw bytes).run s = .ok () (s.emitted bytes) := (putRaw_run bytes s).trans (if_pos h)

/-- On a writer with no bits gathered and with this image, the procedure appends these bytes and does nothing else when
its tables are `ready`; otherwise it is refused for a missing table, after whatever segments came before that table. -/
structure EmitsIf (im : Image) (ready : Bool) (bytes : List Byte) (p : Proc Unit) : Prop where
  appends : ready = true → ∀ s : State, s.writer.wcnt = 0 → s.image = im → p.run s = .ok () (s.emitted bytes)
  refuses : ready = false → ∀ s : State, s.writer.wcnt = 0 → s.image = im →
    ∃ s', p.run s = .error (.refused .missingTable) s'

namespace EmitsIf

variable {im : Image}

theorem pure_unit : EmitsIf im true [] (pure ()) where
  appends _ s _ _ := by rw [State.emitted_nil, Proc.pure_run]
  refuses h := nomatch h

theorem putRaw (bytes : List Byte) : EmitsIf im true bytes (putRaw bytes) where
  appends _ _ hw _ := putRaw_run_emitted bytes hw
  refuses h := nomatch h

theorem missing (bytes : List Byte) : EmitsIf im false bytes (refuse .missingTable) where
  appends h := nomatch h
  refuses _ s _ _ := ⟨s, refuse_run _ s⟩

/-- The segment of one table slot: written when the slot is valid, refused otherwise. -/
theorem valid_or_missing (valid : Bool) (bytes : List Byte) :
    EmitsIf im valid bytes (if valid then Machine.putRaw bytes else refuse .missingTable) := by
  cases valid with
  | true => exact putRaw bytes
  | false => exact missing bytes

/-- Emitters read the image, which none of them changes. -/
theorem of_image {ready : Bool} {bytes : List Byte} {f : Image → Proc Unit} (h : EmitsIf im ready bytes (f im)) :
    EmitsIf im ready bytes (get >>= fun s => f s.image) where
  appends hr s hw him := by rw [Proc.get_bind_run, him, h.appends hr s hw him]
  refuses hr s hw him := by rw [Proc.get_bind_run, him]; exact h.refuses hr s hw him

theorem seq {ready ready' : Bool} {bytes bytes' : List Byte} {p q : Proc Unit} (hp : EmitsIf im ready bytes p)
    (hq : EmitsIf im ready' bytes' q) : EmitsIf im (ready && ready') (bytes ++ bytes') (p >>= fun _ => q) where
  appends hr s hw him := by
    obtain ⟨hr1, hr2⟩ := Bool.and_eq_true_iff.mp hr
    rw [Proc.bind_run_ok (hp.appends hr1 s hw him), hq.appends hr2 (s.emitted bytes) hw him, State.emitted_emitted]
  refuses hr s hw him := by
    cases hready : ready with
    | false =>
      obtain ⟨s', hrun⟩ := hp.refuses hready s hw him
      exact ⟨s', Proc.bind_run_error hrun⟩
    | true =>
      rw [hready, Bool.true_and] at hr
      rw [Proc.bind_run_ok (hp.appends hready s hw him)]
      exact hq.refuses hr _ hw him

/-- A list of emitters appends its segments in order if every one is ready. -/
theorem forM {α : Type} {ready : α → Bool} {bytes : α → List Byte} {emit : α → Proc Unit}
    (h : ∀ a, EmitsIf im (ready a) (bytes a) (emit a)) (as : List α) :
    EmitsIf im (as.all ready) (as.flatMap bytes) (as.forM emit) := by
  induction as with
  | nil => exact pure_unit
  | cons a as ih => exact (h a).seq ih

/-- An emitter run as an instruction. -/
theorem runUnit_appends {s : State} {bytes : List Byte} {p : Proc Unit} (h : EmitsIf s.image true bytes p)
    (hw : s.writer.wcnt = 0) : runUnit p s = .next ((s.emitted bytes).returning .none) :=
  runUnit_ok (h.appends rfl s hw rfl)

theorem runUnit_refuses {s : State} {bytes : List Byte} {p : Proc Unit} (h : EmitsIf s.image false bytes p)
    (hw : s.writer.wcnt = 0) : ∃ t, runUnit p s = .next t ∧ t.refusedWith .missingTable := by
  obtain ⟨s', hrun⟩ := h.refuses rfl s hw rfl
  exact ⟨takeRefusal .missingTable s', runUnit_error hrun, rfl, rfl⟩

end EmitsIf

section
variable (im : Image)

theorem emitSoi_emits : EmitsIf im true [0xFF, 0xD8] emitSoi := .putRaw _

theorem emitPreserved_emits : EmitsIf im true im.preservedBytes emitPreserved where
  appends _ s hw him := by
    subst him
    exact forM_putRaw_run s.image.seg s hw
  refuses h := nomatch h

theorem emitSof0_emits : EmitsIf im true (segmentBytes 0xC0 (sof0Payload im.frame)) emitSof0 :=
  .of_image (f := fun im => putRaw (segmentBytes 0xC0 (sof0Payload im.frame))) (.putRaw _)

theorem emitSos_emits : EmitsIf im true (segmentBytes 0xDA (sosPayload im.frame im.scan0)) emitSos :=
  .of_image (f := fun im => putRaw (segmentBytes 0xDA (sosPayload im.frame im.scan0))) (.putRaw _)

/-- No interval, no DRI segment (spec R248). -/
theorem emitDri_emits : EmitsIf im true im.driBytes emitDri := by
  refine .of_image (f := fun im => if 0 < im.ri.toNat then putRaw (segmentBytes 0xDD (be16Bytes im.ri)) else pure ()) ?_
  rw [Image.driBytes]
  by_cases hri : im.ri = 0
  · rw [if_pos hri, if_neg (by rw [hri]; decide)]
    exact .pure_unit
  · have hpos : 0 < im.ri.toNat := Nat.pos_of_ne_zero fun h0 => hri (BitVec.eq_of_toNat_eq h0)
    rw [if_neg hri, if_pos hpos]
    exact .putRaw _

theorem emitOneDqt_emits (t : Slot) :
    EmitsIf im im.qt[t].valid (segmentBytes 0xDB (dqtPayload t im.qt[t])) (emitOneDqt t) :=
  .of_image (f := fun im => if im.qt[t].valid then putRaw (segmentBytes 0xDB (dqtPayload t im.qt[t]))
    else refuse .missingTable) (.valid_or_missing _ _)

theorem emitOneDht_emits (tc : TableClass) (t : Slot) :
    EmitsIf im (im.ht tc t).valid (segmentBytes 0xC4 (dhtPayload tc t (im.ht tc t))) (emitOneDht tc t) :=
  .of_image (f := fun im => if (im.ht tc t).valid then putRaw (segmentBytes 0xC4 (dhtPayload tc t (im.ht tc t)))
    else refuse .missingTable) (.valid_or_missing _ _)

theorem emitDqt_emits : EmitsIf im ((usedQuant im).all fun t => im.qt[t].valid) im.dqtBytes emitDqt :=
  .of_image (f := fun im => (usedQuant im).forM emitOneDqt) (.forM (emitOneDqt_emits im) _)

theorem emitDht_emits :
    EmitsIf im
      (((usedHuff im .dc).all fun t => (im.ht .dc t).valid) && (usedHuff im .ac).all fun t => (im.ht .ac t).valid)
      im.dhtBytes emitDht :=
  .of_image (f := fun im => do (usedHuff im .dc).forM (emitOneDht .dc); (usedHuff im .ac).forM (emitOneDht .ac))
    (.seq (.forM (emitOneDht_emits im .dc) _) (.forM (emitOneDht_emits im .ac) _))

end

theorem exec_emitSoi (s : State) : exec .emitSoi s = runUnit emitSoi s := by rfl

theorem exec_emitPreserved (s : State) : exec .emitPreserved s = runUnit emitPreserved s := by rfl

theorem exec_emitSof0 (s : State) : exec .emitSof0 s = runUnit emitSof0 s := by rfl

theorem exec_emitDri (s : State) : exec .emitDri s = runUnit emitDri s := by rfl

/-- What a rule requires on entry, where it holds, leaves the procedure alone (spec R9). -/
theorem runUnit_require {ok : Bool} (h : ok = true) (e : Config.Excluded) (p : Proc Unit) (s : State) :
    runUnit (do require ok e; p) s = runUnit p s := by
  rw [h]
  rfl

theorem exec_emitSos {s : State} (h : s.image.scans ≠ []) : exec .emitSos s = runUnit emitSos s :=
  runUnit_require (decide_eq_true h) _ _ s

theorem exec_emitDqt {s : State} (h : s.image.scans ≠ []) : exec .emitDqt s = runUnit emitDqt s :=
  runUnit_require (decide_eq_true h) _ _ s

theorem exec_emitDht {s : State} (h : s.image.scans ≠ []) : exec .emitDht s = runUnit emitDht s :=
  runUnit_require (decide_eq_true h) _ _ s

/-- Settles O49: each emitter by what it emits, the table emitters by whether their tables are valid. -/
theorem emittersAppendTheirSegments : Obligations.EmittersAppendTheirSegments := by
  intro s hw
  refine ⟨?_, ?_, ?_, ?_, fun hscans => ⟨?_, fun hready => ?_, fun hmissing => ?_, fun hdc hac => ?_,
    fun hmissing => ?_⟩⟩
  · exact (exec_emitSoi s).trans ((emitSoi_emits _).runUnit_appends hw)
  · exact (exec_emitPreserved s).trans ((emitPreserved_emits _).runUnit_appends hw)
  · exact (exec_emitSof0 s).trans ((emitSof0_emits _).runUnit_appends hw)
  · exact (exec_emitDri s).trans ((emitDri_emits _).runUnit_appends hw)
  · exact (exec_emitSos hscans).trans ((emitSos_emits _).runUnit_appends hw)
  · exact (exec_emitDqt hscans).trans ((hready ▸ emitDqt_emits s.image).runUnit_appends hw)
  · rw [exec_emitDqt hscans]
    exact (hmissing ▸ emitDqt_emits s.image).runUnit_refuses hw
  · have hready := Bool.and_eq_true_iff.mpr ⟨hdc, hac⟩
    exact (exec_emitDht hscans).trans ((hready ▸ emitDht_emits s.image).runUnit_appends hw)
  · rw [exec_emitDht hscans]
    exact (Bool.and_eq_false_iff.mpr hmissing ▸ emitDht_emits s.image).runUnit_refuses hw

/-- The state after a flush: the bits gathered stand padded and stuffed in `OUT` (spec R143). -/
def State.flushed (s : State) : State :=
  { s with writer :=
    { out := s.writer.out ++ entropyBytes (natToBits s.writer.wacc.toNat s.writer.wcnt), wacc := 0, wcnt := 0 } }

theorem flushWithPadding_run_flushed {s : State} (h : s.writer.ok = true) :
    flushWithPadding.run s = .ok () s.flushed := by
  have hflush := Writer.flush_holding s.writer.out (natToBits s.writer.wacc.toNat s.writer.wcnt)
  rw [← Writer.eq_holding h] at hflush
  rw [flushWithPadding_run, hflush, State.flushed]

/-- A marker behind a flush: no bits are gathered, so `put_raw` may follow (spec R144). -/
theorem putRaw_run_flushed (bytes : List Byte) (s : State) :
    (putRaw bytes).run s.flushed = .ok () (s.flushed.emitted bytes) := putRaw_run_emitted bytes rfl

theorem exec_emitRestart (s : State) : exec .emitRestart s = runUnit emitRestart s := by rfl

theorem exec_finalize (s : State) : exec .finalize s = runUnit finalize s := by rfl

theorem emitRestart_run {s : State} (h : s.writer.ok = true) :
    emitRestart.run s = restartEffect.run (s.flushed.emitted [0xFF, 0xD0 + s.work.rstn.zeroExtend 8]) := by
  rw [emitRestart, Proc.bind_run_ok (flushWithPadding_run_flushed h), Proc.get_bind_run]
  exact Proc.bind_run_ok (putRaw_run_flushed _ s)

theorem finalize_run {s : State} (h : s.writer.ok = true) :
    finalize.run s = .ok () (s.flushed.emitted [0xFF, 0xD9]) := by
  rw [finalize, Proc.bind_run_ok (flushWithPadding_run_flushed h), putRaw_run_flushed]

/-- Settles O50: a flush, then the marker; behind a restart marker the effect that decoding has too. -/
theorem restartAndEoiFollowAFlush : Obligations.RestartAndEoiFollowAFlush := by
  intro s hok
  refine ⟨?_, ?_⟩
  · rw [exec_emitRestart, runUnit_ok ((emitRestart_run hok).trans (restartEffect_run _))]
    rfl
  · rw [exec_finalize, runUnit_ok (finalize_run hok)]
    rfl

end Sys2Proof.Machine
end

section
/-! PROOFS of the quantisation unit: rounded division and the two block maps (spec R282 to R284). -/

namespace Sys2Proof.Machine

/-- Rounding down what was moved up by half a divisor misses the dividend by at most half a divisor. -/
theorem ediv_half_up_near (a : Int) {q : Nat} (hq : 0 < q) :
    2 * (a - (2 * a + q) / (2 * q) * (q : Int)).natAbs ≤ q := by
  have hpos : (0 : Int) < 2 * q := by omega
  have hlow := Int.ediv_mul_le (2 * a + q) hpos.ne'
  have hhigh := Int.lt_ediv_add_one_mul_self (2 * a + q) hpos
  generalize (2 * a + q) / (2 * (q : Int)) = n at *
  rw [add_mul, one_mul] at hhigh
  rw [mul_left_comm] at hlow hhigh
  omega

/-- `rdiv` answers a nearest integer (spec R283). -/
theorem rdiv_near (a : Int) {q : Nat} (hq : 0 < q) : 2 * (a - rdiv a q * (q : Int)).natAbs ≤ q := by
  rw [rdiv]
  split
  · exact ediv_half_up_near a hq
  · have hneg := ediv_half_up_near (-a) hq
    rwa [← Int.natAbs_neg, neg_sub, sub_neg_eq_add, add_comm, ← sub_neg_eq_add, ← neg_mul] at hneg

/-- Between two multiples of `q` lies a whole `q`, so the nearest quotient of a multiple is exact (spec R284). -/
theorem rdiv_mul (v : Int) {q : Nat} (hq : 0 < q) : rdiv (v * (q : Int)) q = v := by
  have hnear := rdiv_near (v * (q : Int)) hq
  rw [← sub_mul, Int.natAbs_mul, Int.natAbs_natCast, ← mul_assoc] at hnear
  have hclose : 2 * (v - rdiv (v * (q : Int)) q).natAbs ≤ 1 := Nat.le_of_mul_le_mul_right (by rwa [one_mul]) hq
  omega

@[simp] theorem dequantized_getElem (cells : Vector Int 64) (q : Vector Half 64) (i : Fin 64) :
    (dequantized cells q)[i] = cells[i] * (q[i].toNat : Int) := by simp [dequantized]

@[simp] theorem quantized_getElem (d : Vector Int 64) (q : Vector Half 64) (i : Fin 64) :
    (quantized d q)[i] = rdiv d[i] q[i].toNat := by simp [quantized]

theorem half_toNat_pos {e : Half} (h : e ≠ 0) : 0 < e.toNat :=
  Nat.pos_of_ne_zero fun h0 => h (BitVec.eq_of_toNat_eq h0)

section
variable {q : Vector Half 64} (hq : ∀ i : Fin 64, q[i] ≠ 0)
include hq

/-- The products, divided again, are the coefficients (spec R284). -/
theorem quantized_dequantized (cells : Vector Int 64) : quantized (dequantized cells q) q = cells := by
  ext i hi
  have hcell := quantized_getElem (dequantized cells q) q ⟨i, hi⟩
  rwa [dequantized_getElem, rdiv_mul _ (half_toNat_pos (hq ⟨i, hi⟩))] at hcell

/-- The quotients, multiplied again, miss the operand by at most half an entry (spec R284). -/
theorem dequantized_quantized_near (d : Vector Int 64) (i : Fin 64) :
    2 * ((dequantized (quantized d q) q)[i] - d[i]).natAbs ≤ q[i].toNat := by
  rw [dequantized_getElem, quantized_getElem, ← Int.natAbs_neg, neg_sub]
  exact rdiv_near d[i] (half_toNat_pos (hq i))

end

/-- A block written with what it held leaves every cell as it was. -/
theorem Memory.read_writeBlock_readBlock {m : Memory} (h : m.wf = true) (c row col a : Nat) :
    (m.writeBlock c row col (m.readBlock c row col)).read a = m.read a := by
  by_cases hin : ∃ i : Fin 64, a = cellAddr c row col i.val
  · obtain ⟨i, rfl⟩ := hin
    rw [Memory.read_writeBlock m c row col _ i h]
    simp [Memory.readBlock, blockAddr_add]
  · exact Memory.read_writeBlock_other m c row col _ a (not_exists.mp hin)

/-- The products of a block of the plane, cell by cell (spec R282). -/
theorem dequantized_readBlock (m : Memory) (c row col : Nat) (q : Vector Half 64) :
    dequantized (m.readBlock c row col) q =
      Vector.ofFn fun i : Fin 64 => m.read (cellAddr c row col i.val) * (q[i].toNat : Int) := by
  simp [dequantized, Memory.readBlock, blockAddr_add]

end Sys2Proof.Machine
end

section
/-! PROOFS of the quantisation unit: the commands DEQUANT and QUANT (spec R282 to R284). -/

namespace Sys2Proof.Machine

/-- An instruction whose procedure is refused answers a refused state (spec R323). -/
theorem runProc_refused {α : Type} (value : α → Value) {p : Proc α} {s s' : State} {reason : Reason}
    (h : p.run s = .error (.refused reason) s') : ∃ t, runProc value p s = .next t ∧ t.refusedWith reason :=
  ⟨takeRefusal reason s', runProc_error value h, rfl, rfl⟩

theorem Frame.hasBlock_iff {f : Frame} {c row col : Nat} :
    f.hasBlock c row col = true ↔ c < f.nf ∧ row < f.bh c ∧ col < f.bw c := by
  simp [Frame.hasBlock, and_assoc]

section
variable {α : Type} {inRange : Frame → Bool} {s : State}

theorem onDecoded_run_of_inRange (hphase : s.status.phase = .decoded) (hrange : inRange s.image.frame = true)
    (body : Proc α) : (onDecoded inRange body).run s = body.run s := by
  rw [onDecoded_run, if_neg (not_not.mpr hphase), if_neg (by rw [hrange]; decide)]

theorem onDecoded_run_of_not_inRange (hphase : s.status.phase = .decoded) (hrange : ¬ inRange s.image.frame = true)
    (body : Proc α) : (onDecoded inRange body).run s = .error (.refused .badOperand) s := by
  rw [onDecoded_run, if_neg (not_not.mpr hphase), if_pos (Bool.eq_false_of_not_eq_true hrange)]

theorem onDecoded_run_of_phase_ne (hphase : s.status.phase ≠ .decoded) (body : Proc α) :
    (onDecoded inRange body).run s = .error (.refused .badPhase) s := by
  rw [onDecoded_run, if_pos hphase]

end

theorem exec_dequant (c row col : Nat) (s : State) :
    exec (.dequant c row col) s = runProc Value.coefs (dequantProc c row col) s := by rfl

theorem exec_quant (c row col : Nat) (d : Vector Int 64) (s : State) :
    exec (.quant c row col d) s = runUnit (quantProc c row col d) s := by rfl

/-- What DEQUANT and QUANT ask for: phase `DECODED`, a block of the grid, and the component's table, which is `q` (spec
R99, R281 to R283). -/
structure State.HasTable (s : State) (c row col : Nat) (q : Vector Half 64) : Prop where
  phase : s.status.phase = .decoded
  block : s.image.frame.hasBlock c row col = true
  valid : s.image.qt[(s.image.frame.comp c).tq].valid = true
  entries : s.image.qt[(s.image.frame.comp c).tq].q = q

/-- The state with other coefficient cells. -/
def State.withPlane (s : State) (m : Memory) : State := { s with image := { s.image with plane := m } }

@[simp] theorem State.withPlane_plane (s : State) (m : Memory) : (s.withPlane m).image.plane = m := rfl

namespace State.HasTable

variable {s : State} {c row col : Nat} {q : Vector Half 64}

/-- A returned value takes nothing away. -/
theorem returning (h : s.HasTable c row col q) (v : Value) : (s.returning v).HasTable c row col q :=
  ⟨h.phase, h.block, h.valid, h.entries⟩

/-- Coefficient cells are not asked about. -/
theorem withPlane (h : s.HasTable c row col q) (m : Memory) : (s.withPlane m).HasTable c row col q :=
  ⟨h.phase, h.block, h.valid, h.entries⟩

theorem tableOf_run (h : s.HasTable c row col q) : (tableOf c).run s = .ok q s := by
  rw [Machine.tableOf_run, if_pos h.valid, h.entries]

/-- DEQUANT changes no state (spec R282). -/
theorem exec_dequant (h : s.HasTable c row col q) :
    exec (.dequant c row col) s =
      .next (s.returning (.coefs (dequantized (s.image.plane.readBlock c row col) q))) := by
  rw [Machine.exec_dequant]
  refine runProc_ok Value.coefs ?_
  rw [dequantProc, onDecoded_run_of_inRange h.phase h.block, Proc.bind_run_ok h.tableOf_run, Proc.get_bind_run,
    Proc.pure_run]

/-- QUANT by a table without a zero entry (spec R283). -/
theorem exec_quant (h : s.HasTable c row col q) (hq : ∀ i : Fin 64, q[i] ≠ 0) (d : Vector Int 64) :
    exec (.quant c row col d) s =
      .next ((s.withPlane (s.image.plane.writeBlock c row col (quantized d q))).returning .none) := by
  have hnonzero : ¬ (q.toList.any fun e => e == 0) = true := by
    intro hany
    obtain ⟨e, hmem, hzero⟩ := List.any_eq_true.mp hany
    obtain ⟨i, hi, rfl⟩ := Vector.mem_iff_getElem.mp (Vector.mem_toList_iff.mp hmem)
    exact hq ⟨i, hi⟩ (eq_of_beq hzero)
  rw [Machine.exec_quant]
  refine runUnit_ok ?_
  rw [quantProc, onDecoded_run_of_inRange h.phase h.block, Proc.bind_run_ok h.tableOf_run, if_neg hnonzero,
    modifyImage_run, State.withPlane]

/-- What a DEQUANT answered, from its answer (spec R282). -/
theorem dequant_answer (h : s.HasTable c row col q) {t : State} {d : Vector Int 64}
    (hexec : exec (.dequant c row col) s = .next t) (hresult : t.port.result = .coefs d) :
    t = s.returning (.coefs d) ∧ d = dequantized (s.image.plane.readBlock c row col) q := by
  rw [h.exec_dequant, Host.Outcome.next.injEq] at hexec
  subst hexec
  rw [State.returning_port_result, Value.coefs.injEq] at hresult
  subst hresult
  exact ⟨rfl, rfl⟩

/-- QUANT of what DEQUANT answered leaves phase and cells (spec R284). -/
theorem quant_of_dequant (h : s.HasTable c row col q) (hwf : s.image.plane.wf = true) (hq : ∀ i : Fin 64, q[i] ≠ 0)
    {s1 t : State} {d : Vector Int 64} (hdequant : exec (.dequant c row col) s = .next s1)
    (hresult : s1.port.result = .coefs d) (hquant : exec (.quant c row col d) s1 = .next t) :
    t.status.phase = .decoded ∧ ∀ a, t.image.plane.read a = s.image.plane.read a := by
  obtain ⟨rfl, rfl⟩ := h.dequant_answer hdequant hresult
  rw [(h.returning _).exec_quant hq, State.returning_image, quantized_dequantized hq,
    Host.Outcome.next.injEq] at hquant
  subst hquant
  refine ⟨h.phase, fun a => ?_⟩
  rw [State.returning_image, State.withPlane_plane, Memory.read_writeBlock_readBlock hwf]

/-- DEQUANT of what QUANT stored is the rounded operand (spec R284). -/
theorem dequant_of_quant (h : s.HasTable c row col q) (hwf : s.image.plane.wf = true) (hq : ∀ i : Fin 64, q[i] ≠ 0)
    {s1 t : State} {d e : Vector Int 64} (hquant : exec (.quant c row col d) s = .next s1)
    (hdequant : exec (.dequant c row col) s1 = .next t) (hresult : t.port.result = .coefs e) :
    e = dequantized (quantized d q) q := by
  rw [h.exec_quant hq, Host.Outcome.next.injEq] at hquant
  subst hquant
  obtain ⟨-, he⟩ := ((h.withPlane _).returning _).dequant_answer hdequant hresult
  rwa [State.returning_image, State.withPlane_plane, Memory.readBlock_writeBlock _ _ _ _ _ hwf] at he

end State.HasTable

/-- Without a table of the component DEQUANT is refused (spec R282). -/
theorem exec_dequant_of_not_valid {s : State} {c row col : Nat} (hphase : s.status.phase = .decoded)
    (hblock : s.image.frame.hasBlock c row col = true)
    (hvalid : s.image.qt[(s.image.frame.comp c).tq].valid = false) :
    ∃ t, exec (.dequant c row col) s = .next t ∧ t.refusedWith .missingTable := by
  rw [exec_dequant]
  refine runProc_refused (s' := s) Value.coefs ?_
  rw [dequantProc, onDecoded_run_of_inRange hphase hblock,
    Proc.bind_run_error ((tableOf_run c s).trans (if_neg (by rw [hvalid]; decide)))]

/-- Settles O13: DEQUANT by its checks in order, the phase, the block and the table. -/
theorem dequantAnswersTheProducts : Obligations.DequantAnswersTheProducts := by
  refine ⟨fun s c row col hphase hc hrow hcol => ?_, fun s c row col hphase hout => ?_,
    fun s c row col hphase => ?_⟩
  · have hblock := Frame.hasBlock_iff.mpr ⟨hc, hrow, hcol⟩
    refine ⟨fun hvalid => ?_, exec_dequant_of_not_valid hphase hblock⟩
    rw [State.HasTable.exec_dequant ⟨hphase, hblock, hvalid, rfl⟩, dequantized_readBlock]
  · rw [exec_dequant]
    exact runProc_refused _ (onDecoded_run_of_not_inRange hphase (mt Frame.hasBlock_iff.mp hout) _)
  · rw [exec_dequant]
    exact runProc_refused _ (onDecoded_run_of_phase_ne hphase _)

/-- Settles O15: the block maps invert each other as far as rounding allows, and each command is one of them between a
load and a store of the block. -/
theorem quantInvertsDequant : Obligations.QuantInvertsDequant := by
  refine ⟨?_, fun v q => rdiv_mul v, ?_⟩
  · intro s s1 t c row col d hphase hwf hc hrow hcol hvalid hq hdequant hresult hquant
    have htable : s.HasTable c row col _ := ⟨hphase, Frame.hasBlock_iff.mpr ⟨hc, hrow, hcol⟩, hvalid, rfl⟩
    exact htable.quant_of_dequant hwf hq hdequant hresult hquant
  · intro s s1 t c row col d e hphase hwf hc hrow hcol hvalid hq hquant hdequant hresult
    have htable : s.HasTable c row col _ := ⟨hphase, Frame.hasBlock_iff.mpr ⟨hc, hrow, hcol⟩, hvalid, rfl⟩
    rw [htable.dequant_of_quant hwf hq hquant hdequant hresult]
    exact dequantized_quantized_near hq d

end Sys2Proof.Machine
end

section
/-! PROOFS of the host agent: rounding to a multiple of `δ` (spec R295). -/

namespace Sys2Proof.Machine

/-- What `qround` leaves over is less than half of `δ`, or it is half of `δ` and the multiple's number is even. -/
theorem qround_near_or_tie_even (d : Int) {delta : Nat} (hdelta : 1 ≤ delta) :
    2 * (d - qround d delta * (delta : Int)).natAbs < delta ∨
      2 * (d - qround d delta * (delta : Int)).natAbs = delta ∧ qround d delta % 2 = 0 := by
  have hpos : (0 : Int) < delta := by omega
  have hnonneg := Int.emod_nonneg d hpos.ne'
  have hlt := Int.emod_lt_of_pos d hpos
  have hdown : d - d / (delta : Int) * delta = d % delta := by rw [Int.emod_def, mul_comm]
  have hup : d - (d / (delta : Int) + 1) * delta = d % delta - delta := by
    rw [add_mul, one_mul, ← sub_sub, hdown]
  simp only [qround, hdown]
  split_ifs with hbelow habove heven
  · rw [hdown]
    omega
  · rw [hup]
    omega
  · rw [hdown]
    omega
  · rw [hup]
    omega

/-- The procedure `qround` on the divisors its rule states a result for (spec R295). -/
theorem exec_qround (d : Int) {delta : Nat} (hdelta : 1 ≤ delta) (s : State) :
    exec (.qround d delta) s = .next (s.returning (.int (qround d delta))) := by
  show execQround d delta s = _
  rw [execQround, if_pos hdelta, runPure_eq]

/-- Settles O51: what is left over is less than half of `δ`, where no tie is, or half of it at an even number. -/
theorem qroundRoundsToNearestEven : Obligations.QroundRoundsToNearestEven := by
  refine fun s d delta hdelta => ⟨exec_qround d hdelta s, ?_⟩
  obtain hnear | ⟨htie, heven⟩ := qround_near_or_tie_even d hdelta
  · exact ⟨hnear.le, fun htie => absurd htie hnear.ne⟩
  · exact ⟨htie.le, fun _ => heven⟩

end Sys2Proof.Machine
end

section
/-! PROOFS of the exceptions: a refusal keeps the error registers (spec R323), and only `RESET` leaves `FAILED` and
`REFUSED` (spec R326, R327, R350). -/

namespace Sys2Proof.Machine

/-- The last command ended by an error or a refusal (spec R323, R325). -/
def State.halted (s : State) : Prop := s.status.phase = .failed ∨ s.status.phase = .refused

/-- What an instruction answers that is refused in `s`: the reason is recorded and the error registers keep their values
(spec R323). -/
def RefusedKeepingError (s : State) (reason : Reason) (answer : Host.Outcome State Fault Refusal) : Prop :=
  ∃ t, answer = .next t ∧ t.refusedWith reason ∧ t.status.err = s.status.err ∧ t.status.errpos = s.status.errpos

/-- The commands with a phase condition: all of level C but `RESET` and the reserved codes (spec R99). -/
inductive PhasedCommand : Instr → Prop
  | decode (buf : List Byte) : PhasedCommand (.decode buf)
  | encode : PhasedCommand .encode
  | dequant (c row col : Nat) : PhasedCommand (.dequant c row col)
  | quant (c row col : Nat) (d : Vector Int 64) : PhasedCommand (.quant c row col d)
  | rdcoef (c row col i : Nat) : PhasedCommand (.rdcoef c row col i)
  | wrcoef (c row col i : Nat) (v : Int) : PhasedCommand (.wrcoef c row col i v)

/-- What a request decodes to, by its code (spec R99). -/
theorem decodeCommand_cases (r : Request) :
    (r.code = 1 ∧ decodeCommand r = .reset) ∨
    (2 ≤ r.code.toNat ∧ r.code.toNat ≤ 7 ∧ PhasedCommand (decodeCommand r)) ∨
    ((r.code.toNat = 0 ∨ 8 ≤ r.code.toNat) ∧ decodeCommand r = .reservedCommand r.code) := by
  unfold decodeCommand
  split
  case h_1 hcode => exact .inl ⟨BitVec.eq_of_toNat_eq hcode, rfl⟩
  case h_2 hcode => exact .inr (.inl ⟨by omega, by omega, .decode _⟩)
  case h_3 hcode => exact .inr (.inl ⟨by omega, by omega, .encode⟩)
  case h_4 hcode => exact .inr (.inl ⟨by omega, by omega, .dequant _ _ _⟩)
  case h_5 hcode => exact .inr (.inl ⟨by omega, by omega, .quant _ _ _ _⟩)
  case h_6 hcode => exact .inr (.inl ⟨by omega, by omega, .rdcoef _ _ _ _⟩)
  case h_7 hcode => exact .inr (.inl ⟨by omega, by omega, .wrcoef _ _ _ _ _⟩)
  case h_8 h1 h2 h3 h4 h5 h6 h7 =>
    simp only [imp_false] at h1 h2 h3 h4 h5 h6 h7
    exact .inr (.inr ⟨by omega, rfl⟩)

theorem phasedCommand_decodeCommand {r : Request} (hlow : 2 ≤ r.code.toNat) (hhigh : r.code.toNat ≤ 7) :
    PhasedCommand (decodeCommand r) := by
  obtain ⟨hcode, -⟩ | ⟨-, -, hphased⟩ | ⟨hcode, -⟩ := decodeCommand_cases r
  · rw [hcode] at hlow
    exact absurd hlow (by decide)
  · exact hphased
  · omega

/-- `RESET` is legal in every phase (spec R350). -/
theorem exec_reset (s : State) : exec .reset s = .next (resetBlock s) := by rfl

theorem decodeCommandProc_run_of_phase_ne {s : State} (hidle : s.status.phase ≠ .idle)
    (hdecoded : s.status.phase ≠ .decoded) (buf : List Byte) :
    (decodeCommandProc buf).run s = .error (.refused .badPhase) s := by
  rw [decodeCommandProc, Proc.get_bind_run, if_pos (by simp [hidle, hdecoded])]
  rfl

/-- An ENCODE out of phase empties `OUT` all the same (spec R259, R323). -/
theorem encodeCommandProc_run_of_phase_ne {s : State} (hdecoded : s.status.phase ≠ .decoded) :
    encodeCommandProc.run s = .error (.refused .badPhase) { s with writer := { s.writer with out := [] } } := by
  rw [encodeCommandProc, Proc.get_bind_run, if_pos hdecoded]
  rfl

/-- A refusal writes neither `ERR` nor `ERRPOS` (spec R323). -/
theorem runProc_refusedKeepingError {α : Type} (value : α → Value) {p : Proc α} {s s' : State} {reason : Reason}
    (h : p.run s = .error (.refused reason) s') (hstatus : s'.status = s.status) :
    RefusedKeepingError s reason (runProc value p s) :=
  ⟨takeRefusal reason s', runProc_error value h, ⟨rfl, rfl⟩,
    by rw [← hstatus, State.takeRefusal_status_err], by rw [← hstatus, State.takeRefusal_status_errpos]⟩

theorem exec_reservedCommand_refused (code : Byte) (s : State) :
    RefusedKeepingError s .badOperand (exec (.reservedCommand code) s) :=
  runProc_refusedKeepingError (fun _ => Value.none) (refuse_run (α := Unit) _ s) rfl

/-- Outside `IDLE` and `DECODED` no command with a phase condition is legal (spec R99). -/
theorem PhasedCommand.exec_refused {i : Instr} (hi : PhasedCommand i) {s : State} (hidle : s.status.phase ≠ .idle)
    (hdecoded : s.status.phase ≠ .decoded) : RefusedKeepingError s .badPhase (exec i s) := by
  cases hi with
  | decode buf => exact runProc_refusedKeepingError _ (decodeCommandProc_run_of_phase_ne hidle hdecoded buf) rfl
  | encode => exact runProc_refusedKeepingError _ (encodeCommandProc_run_of_phase_ne hdecoded) rfl
  | dequant => exact runProc_refusedKeepingError _ (onDecoded_run_of_phase_ne hdecoded _) rfl
  | quant => exact runProc_refusedKeepingError _ (onDecoded_run_of_phase_ne hdecoded _) rfl
  | rdcoef => exact runProc_refusedKeepingError _ (onDecoded_run_of_phase_ne hdecoded _) rfl
  | wrcoef => exact runProc_refusedKeepingError _ (onDecoded_run_of_phase_ne hdecoded _) rfl

/-- What follows an instruction is nothing when no decode goes on after it. -/
theorem complete_of_phase_ne {t : State} (h : t.status.phase ≠ .busyDec) (l : Level) (i : Instr) : complete l i t = t := by
  unfold complete
  split
  · contradiction
  all_goals rfl

namespace State.halted

variable {s : State}

theorem phase_ne_idle (h : s.halted) : s.status.phase ≠ .idle := by
  rcases h with h | h <;> simp [h]

theorem phase_ne_decoded (h : s.halted) : s.status.phase ≠ .decoded := by
  rcases h with h | h <;> simp [h]

theorem exec_phasedCommand (h : s.halted) {i : Instr} (hi : PhasedCommand i) :
    RefusedKeepingError s .badPhase (exec i s) := hi.exec_refused h.phase_ne_idle h.phase_ne_decoded

/-- A command issued after a failure ends in `REFUSED`, or it is `RESET` (spec R99, R327). -/
theorem exec_decodeCommand (h : s.halted) (r : Request) :
    ∃ t, exec (decodeCommand r) s = .next t ∧ (t.status.phase = .refused ∨ t.status.phase = .idle ∧ r.code = 1) := by
  obtain ⟨hcode, hreset⟩ | ⟨-, -, hphased⟩ | ⟨-, hreserved⟩ := decodeCommand_cases r
  · exact ⟨resetBlock s, by rw [hreset, exec_reset], .inr ⟨rfl, hcode⟩⟩
  · obtain ⟨t, ht, ⟨hphase, -⟩, -⟩ := h.exec_phasedCommand hphased
    exact ⟨t, ht, .inl hphase⟩
  · obtain ⟨t, ht, ⟨hphase, -⟩, -⟩ := exec_reservedCommand_refused r.code s
    exact ⟨t, by rw [hreserved, ht], .inl hphase⟩

/-- After a failure nothing but a command is fetched (spec R99, R326). -/
theorem fetch_eq (h : s.halted) : fetch s = fetchCommand s := by
  unfold fetch
  rcases h with h | h <;> rw [h]

/-- A step without a command leaves a failed block as it is (spec R333). -/
theorem step_idle (h : s.halted) (hrequests : s.port.requests = []) : step s = .next s := by
  rw [step, h.fetch_eq, fetchCommand, hrequests]

/-- A step with a command issued to a failed block ends in `REFUSED`, or the command is `RESET` (spec R327). -/
theorem step_command (h : s.halted) {r : Request} {rs : List Request} (hrequests : s.port.requests = r :: rs) :
    ∃ t, step s = .next t ∧ (t.status.phase = .refused ∨ t.status.phase = .idle ∧ r.code = 1) := by
  have hfetched : ({ s with port := { s.port with requests := rs } } : State).halted := h
  obtain ⟨t, hexec, hphase⟩ := hfetched.exec_decodeCommand r
  have hbusy : t.status.phase ≠ .busyDec := by
    obtain hrefused | ⟨hidle, -⟩ := hphase
    · simp [hrefused]
    · simp [hidle]
  refine ⟨t, ?_, hphase⟩
  rw [step, h.fetch_eq, fetchCommand, hrequests]
  simp only [hexec, complete_of_phase_ne hbusy]

end State.halted

/-- Settles O9: a command after a failure is refused by its phase condition, and a step of a failed block is an idle one,
a refused command or `RESET`. -/
theorem failureIsStickyUntilReset : Obligations.FailureIsStickyUntilReset := by
  refine ⟨fun s r hhalted hlow hhigh => ?_, fun s => ⟨resetBlock s, exec_reset s, rfl, rfl, rfl, rfl⟩,
    fun s t hhalted hstep => ?_⟩
  · exact State.halted.exec_phasedCommand hhalted (phasedCommand_decodeCommand hlow hhigh)
  · have hs : s.halted := hhalted
    cases hrequests : s.port.requests with
    | nil =>
      rw [hs.step_idle hrequests, Host.Outcome.next.injEq] at hstep
      subst hstep
      exact hs.imp_right .inl
    | cons r rs =>
      obtain ⟨t', hstep', hphase⟩ := hs.step_command hrequests
      rw [hstep', Host.Outcome.next.injEq] at hstep
      subst hstep
      obtain hrefused | ⟨hidle, hcode⟩ := hphase
      · exact .inr (.inl hrefused)
      · exact .inr (.inr ⟨hidle, r, rs, rfl, hcode⟩)

end Sys2Proof.Machine
end

section
/-! PROOFS of the encoding: the decoder inverts the encoder, level by level (spec R80, R82, R93, R94, R99, R100). -/

namespace Sys2Proof

theorem decodeMarkerCode_rst : ∀ n : BitVec 3, decodeMarkerCode (0xD0 + n.zeroExtend 8) = .rst n := by decide

theorem decodeMarkerCode_app : ∀ n : BitVec 4, decodeMarkerCode (0xE0 + n.zeroExtend 8) = .app n := by decide

theorem decodeMarkerCode_jpgLow : ∀ n : BitVec 3, decodeMarkerCode (0xF0 + n.zeroExtend 8) = .jpgLow n := by decide

theorem decodeMarkerCode_jpgMid : ∀ n : BitVec 2, decodeMarkerCode (0xF8 + n.zeroExtend 8) = .jpgMid n := by decide

theorem decodeMarkerCode_jpgHigh : ∀ n : BitVec 1, decodeMarkerCode (0xFC + n.zeroExtend 8) = .jpgHigh n := by decide

/-- A code byte below `0xC0` other than zero stands in no row of the marker table (spec R195). -/
theorem decodeMarkerCode_illegal {m : Byte} (hlow : 1 ≤ m.toNat) (hhigh : m.toNat ≤ 0xBF) :
    decodeMarkerCode m = .illegalMarker m := by
  revert m
  decide +kernel

theorem decodeDcSymbol_of_lt (n : Fin 12) : decodeDcSymbol (BitVec.ofNat 8 n.val) = .dcSize n := by
  revert n
  decide

theorem decodeDcSymbol_of_le {sym : Byte} (h : 12 ≤ sym.toNat) : decodeDcSymbol sym = .illegalDc sym := by
  rw [decodeDcSymbol, dif_neg (Nat.not_lt.mpr h)]

@[simp] theorem hiNibble_nibbles (hi lo : BitVec 4) : hiNibble (nibbles hi lo) = hi := by
  revert hi lo
  decide

@[simp] theorem loNibble_nibbles (hi lo : BitVec 4) : loNibble (nibbles hi lo) = lo := by
  revert hi lo
  decide

@[simp] theorem nibbles_hiNibble_loNibble (b : Byte) : nibbles (hiNibble b) (loNibble b) = b := by
  revert b
  decide +kernel

theorem nibbles_inj {hi lo hi' lo' : BitVec 4} (h : nibbles hi lo = nibbles hi' lo') : hi = hi' ∧ lo = lo' := by
  have hhi := congrArg hiNibble h
  have hlo := congrArg loNibble h
  rw [hiNibble_nibbles, hiNibble_nibbles] at hhi
  rw [loNibble_nibbles, loNibble_nibbles] at hlo
  exact ⟨hhi, hlo⟩

/-- A pair of nibbles that is neither EOB's nor ZRL's is the general AC symbol (spec R94). -/
theorem decodeAcSymbol_nibbles {r s : BitVec 4} (h : (Instr.acRunSize r s).wellFormed = true) :
    decodeAcSymbol (nibbles r s) = .acRunSize r s := by
  have hne : s = 0 → r ≠ 0 ∧ r ≠ 15 := by
    intro hs
    simpa [Instr.wellFormed, hs] using h
  have heob : nibbles r s ≠ 0x00 := fun h0 => by
    obtain ⟨hr, hs⟩ := nibbles_inj (hi' := 0) (lo' := 0) h0
    exact (hne hs).1 hr
  have hzrl : nibbles r s ≠ 0xF0 := fun h0 => by
    obtain ⟨hr, hs⟩ := nibbles_inj (hi' := 15) (lo' := 0) h0
    exact (hne hs).2 hr
  rw [decodeAcSymbol, if_neg heob, if_neg hzrl, hiNibble_nibbles, loNibble_nibbles]

theorem decodeCommand_reserved {code : Byte} (h : code.toNat = 0 ∨ 8 ≤ code.toNat) :
    decodeCommand (Request.bare code) = .reservedCommand code := by
  obtain ⟨hcode, -⟩ | ⟨hlow, hhigh, -⟩ | ⟨-, hreserved⟩ := Machine.decodeCommand_cases (Request.bare code)
  · have hone : code.toNat = 1 := congrArg BitVec.toNat hcode
    omega
  · have hlow' : 2 ≤ code.toNat := hlow
    have hhigh' : code.toNat ≤ 7 := hhigh
    omega
  · exact hreserved

theorem decode_padding {n : Nat} (hlow : 1 ≤ n) (hhigh : n ≤ 7) :
    decode (.padding (List.replicate n true)) = .instr (.pad n) := by
  simp [decode, decodePadding, hlow, hhigh]

/-- Settles O1: by the row; a row with operands by the lemma on its level. -/
theorem decodeInvertsEncode : Obligations.DecodeInvertsEncode := by
  intro i c hwf henc
  cases i
  case reservedCommand code =>
    obtain rfl := Option.some.inj henc
    have hcode : code.toNat = 0 ∨ 8 ≤ code.toNat := by simpa [Instr.wellFormed] using hwf
    exact congrArg Decoded.instr (decodeCommand_reserved hcode)
  case rst n =>
    obtain rfl := Option.some.inj henc
    exact congrArg Decoded.instr (decodeMarkerCode_rst n)
  case app n =>
    obtain rfl := Option.some.inj henc
    exact congrArg Decoded.instr (decodeMarkerCode_app n)
  case jpgLow n =>
    obtain rfl := Option.some.inj henc
    exact congrArg Decoded.instr (decodeMarkerCode_jpgLow n)
  case jpgMid n =>
    obtain rfl := Option.some.inj henc
    exact congrArg Decoded.instr (decodeMarkerCode_jpgMid n)
  case jpgHigh n =>
    obtain rfl := Option.some.inj henc
    exact congrArg Decoded.instr (decodeMarkerCode_jpgHigh n)
  case illegalMarker m =>
    obtain rfl := Option.some.inj henc
    obtain ⟨hlow, hhigh⟩ : 1 ≤ m.toNat ∧ m.toNat ≤ 0xBF := by simpa [Instr.wellFormed] using hwf
    exact congrArg Decoded.instr (decodeMarkerCode_illegal hlow hhigh)
  case dcSize n =>
    obtain rfl := Option.some.inj henc
    exact congrArg Decoded.instr (decodeDcSymbol_of_lt n)
  case illegalDc sym =>
    obtain rfl := Option.some.inj henc
    exact congrArg Decoded.instr (decodeDcSymbol_of_le (by simpa [Instr.wellFormed] using hwf))
  case acRunSize r s =>
    obtain rfl := Option.some.inj henc
    exact congrArg Decoded.instr (decodeAcSymbol_nibbles hwf)
  case pad n =>
    obtain rfl := Option.some.inj henc
    obtain ⟨hlow, hhigh⟩ : 1 ≤ n ∧ n ≤ 7 := by simpa [Instr.wellFormed] using hwf
    exact decode_padding hlow hhigh
  all_goals cases henc
  all_goals rfl

theorem encode_decodeMarkerCode : ∀ m : Byte, encode (decodeMarkerCode m) = some (markerCode m) := by decide +kernel

theorem encode_decodeDcSymbol (sym : Byte) : encode (decodeDcSymbol sym) = some (.dcSymbol sym) := by
  rw [decodeDcSymbol]
  split
  · simp [encode]
  · rfl

theorem encode_decodeAcSymbol (sym : Byte) : encode (decodeAcSymbol sym) = some (.acSymbol sym) := by
  rw [decodeAcSymbol]
  split_ifs with heob hzrl
  · rw [heob, encode]
  · rw [hzrl, encode]
  · rw [encode, nibbles_hiNibble_loNibble]

/-- Settles O2: the meanings by the lemmas on their levels, the words by evaluating the decoder. -/
theorem everyCodeByteHasOneMeaning : Obligations.EveryCodeByteHasOneMeaning := by
  refine ⟨fun m => ⟨(Laws.DecodedForm.all _ (markerCode m) rfl).1, encode_decodeMarkerCode m⟩,
    fun sym => ⟨(Laws.DecodedForm.all _ (.dcSymbol sym) rfl).1, encode_decodeDcSymbol sym⟩,
    fun sym => ⟨(Laws.DecodedForm.all _ (.acSymbol sym) rfl).1, encode_decodeAcSymbol sym⟩,
    fun r => (Laws.DecodedForm.all _ (.command r) rfl).1, ?_⟩
  decide

end Sys2Proof
end

section
/-! PROOFS of the outcomes: every instruction answers a next state, and no command leaves a decode under way (spec R9,
R27, R320). -/

namespace Sys2Proof.Machine

theorem runProc_next {α : Type} (value : α → Value) (p : Proc α) (s : State) : ∃ t, runProc value p s = .next t := by
  cases h : p.run s with
  | ok a t => exact ⟨_, runProc_ok value h⟩
  | error e t => exact ⟨_, runProc_error value h⟩

theorem runHost_ok {α : Type} (value : α → Value) {p : HostProc α} {s s' : State} {a : α} (h : p.run s = .ok a s') :
    runHost value p s = .next { s'.returning (value a) with agent := { s'.agent with status := .ok } } := by
  rw [runHost, h]

theorem runHost_error {α : Type} (value : α → Value) {p : HostProc α} {s s' : State} {e : HostStop}
    (h : p.run s = .error e s') : runHost value p s = .next (takeHostStop e s') := by
  rw [runHost, h]

theorem runHost_next {α : Type} (value : α → Value) (p : HostProc α) (s : State) :
    ∃ t, runHost value p s = .next t := by
  cases h : p.run s with
  | ok a t => exact ⟨_, runHost_ok value h⟩
  | error e t => exact ⟨_, runHost_error value h⟩

/-- Every instruction is RESET, a procedure of the block or of the host, or a pure function (spec R9, R320). -/
theorem exec_next (i : Instr) (s : State) : ∃ t, exec i s = .next t := by
  cases i
  case embedPair | extractPair | embed | extract => exact runHost_next _ _ s
  case reset | peekMarker | extend | size | magbits | rdiv | qround | frame => exact ⟨_, rfl⟩
  case reservedCommand | sof1 | sof2 | sof3 | sof5 | sof6 | sof7 | sof9 | sof10 | sof11 | sof13 | sof14 | sof15 | jpg |
      dac | illegalMarker | notACode | illegalDc | eob | alignToByte | bwReset | emitByte | flushWithPadding =>
    exact ⟨_, rfl⟩
  all_goals exact runProc_next _ _ s

/-- Settles O6: a step answers what the block moved on to, a stop taken, or what an instruction answered. -/
theorem stepAlwaysAnswersNext : Obligations.StepAlwaysAnswersNext := by
  intro s
  cases h : fetch s with
  | internal t => exact ⟨t, by rw [step, h]⟩
  | stopped e t => exact ⟨takeStop e t, by rw [step, h]⟩
  | run i t =>
    obtain ⟨t', ht'⟩ := exec_next i t
    exact ⟨complete s.walk.level i t', by simp only [step, h, ht']⟩

@[simp] theorem takeStop_phase_ne (e : Stop) (s : State) (p : Phase) (hf : p ≠ .failed) (hr : p ≠ .refused) :
    (takeStop e s).status.phase ≠ p := by
  cases e with
  | raised kind pos => exact hf.symm
  | refused reason => exact hr.symm

theorem decodeCommandProc_ok_phase {buf : List Byte} {s t : State} {u : Unit}
    (h : (decodeCommandProc buf).run s = .ok u t) : t.status.phase = .decoded := by
  rw [decodeCommandProc, Proc.get_bind_run] at h
  dsimp only at h
  split at h
  · cases h
  · obtain ⟨_, _, -, h⟩ := Proc.bind_eq_ok h
    obtain ⟨_, _, -, h⟩ := Proc.bind_eq_ok h
    obtain ⟨_, _, -, h⟩ := Proc.bind_eq_ok h
    obtain ⟨_, _, -, h⟩ := Proc.bind_eq_ok h
    rw [setPhase_run] at h
    cases h
    rfl

theorem encodeCommandProc_ok_phase {s t : State} {u : Unit} (h : encodeCommandProc.run s = .ok u t) :
    t.status.phase = .decoded := by
  rw [encodeCommandProc, Proc.get_bind_run] at h
  split_ifs at h
  · cases h
  · cases h
  · iterate 12 obtain ⟨_, _, -, h⟩ := Proc.bind_eq_ok h
    rw [setPhase_run] at h
    cases h
    rfl

theorem onDecoded_ok_body {α : Type} {inRange : Frame → Bool} {body : Proc α} {s t : State} {a : α}
    (h : (onDecoded inRange body).run s = .ok a t) :
    s.status.phase = .decoded ∧ inRange s.image.frame = true ∧ body.run s = .ok a t := by
  rw [onDecoded_run] at h
  split_ifs at h with hphase hrange
  exact ⟨not_not.mp hphase, by simpa using hrange, h⟩

/-- What is refused outside `DECODED` and, when it ends ok, keeps the status, answers in `DECODED` or after a stop. -/
theorem runProc_onDecoded_phase_ne {α : Type} {value : α → Value} {inRange : Frame → Bool} {body : Proc α} {s t : State}
    (hbody : ∀ a t, body.run s = .ok a t → t.status = s.status)
    (h : runProc value (onDecoded inRange body) s = .next t) : t.status.phase ≠ .busyDec := by
  obtain ⟨a, s', hok, rfl⟩ | ⟨e, s', -, rfl⟩ := runProc_cases h
  · obtain ⟨hphase, -, hrun⟩ := onDecoded_ok_body hok
    rw [State.returning_status, hbody a s' hrun, hphase]
    decide
  · simp

theorem tableOf_ok_eq {c : Nat} {s t : State} {q : Vector Half 64} (h : (tableOf c).run s = .ok q t) : t = s := by
  rw [tableOf_run] at h
  split at h <;> cases h
  rfl

/-- No command leaves a decode under way (spec R27, U11). -/
theorem PhasedCommand.exec_phase_ne {i : Instr} (hi : PhasedCommand i) {s t : State} (h : exec i s = .next t) :
    t.status.phase ≠ .busyDec := by
  cases hi with
  | decode buf =>
    obtain ⟨a, s', hok, rfl⟩ | ⟨e, s', -, rfl⟩ := runProc_cases h
    · simp [decodeCommandProc_ok_phase hok]
    · simp
  | encode =>
    obtain ⟨a, s', hok, rfl⟩ | ⟨e, s', -, rfl⟩ := runProc_cases h
    · simp [encodeCommandProc_ok_phase hok]
    · simp
  | dequant c row col =>
    refine runProc_onDecoded_phase_ne (fun a t hrun => ?_) h
    obtain ⟨q, s', htable, hproducts⟩ := Proc.bind_eq_ok hrun
    obtain rfl := tableOf_ok_eq htable
    rw [Proc.get_bind_run, Proc.pure_run, EStateM.Result.ok.injEq] at hproducts
    rw [hproducts.2]
  | quant c row col d =>
    refine runProc_onDecoded_phase_ne (fun a t hrun => ?_) h
    obtain ⟨q, s', htable, hstore⟩ := Proc.bind_eq_ok hrun
    obtain rfl := tableOf_ok_eq htable
    split at hstore <;> cases hstore
    rfl
  | rdcoef c row col i =>
    refine runProc_onDecoded_phase_ne (fun a t hrun => ?_) h
    cases hrun
    rfl
  | wrcoef c row col i v =>
    refine runProc_onDecoded_phase_ne (fun a t hrun => ?_) h
    cases hrun
    rfl

theorem exec_decodeCommand_phase_ne {r : Request} {s t : State} (h : exec (decodeCommand r) s = .next t) :
    t.status.phase ≠ .busyDec := by
  obtain ⟨-, hreset⟩ | ⟨-, -, hphased⟩ | ⟨-, hreserved⟩ := decodeCommand_cases r
  · rw [hreset, exec_reset] at h
    cases h
    nofun
  · exact hphased.exec_phase_ne h
  · rw [hreserved] at h
    cases h
    nofun

end Sys2Proof.Machine
end

section
/-! PROOFS of the step: what it runs at each level of a decode, and a command (spec R80). -/

namespace Sys2Proof.Machine

theorem step_of_run {s t t' : State} {i : Instr} (hfetch : fetch s = .run i t) (hexec : exec i t = .next t') :
    step s = .next (complete s.walk.level i t') := by
  simp only [step, hfetch, hexec]

/-- Outside a decode, and between its commands, the next instruction is a command (spec R80). -/
theorem fetch_command {s : State} (h : s.status.phase ≠ .busyDec ∨ s.walk.level = .command) :
    fetch s = fetchCommand s := by
  unfold fetch
  split
  · rw [h.resolve_left (not_not.mpr ‹_›)]
  all_goals rfl

theorem fetch_marker {s : State} (hphase : s.status.phase = .busyDec) (hlevel : s.walk.level = .marker) :
    fetch s = .ofResult ((if s.image.fSoi then fetchMarker else fetchSoi).run s) := by
  rw [fetch, hphase, hlevel]

theorem fetch_mcu {s : State} (hphase : s.status.phase = .busyDec) (hlevel : s.walk.level = .mcu) :
    fetch s = fetchMcu s := by
  rw [fetch, hphase, hlevel]

theorem fetch_dc {s : State} (hphase : s.status.phase = .busyDec) (hlevel : s.walk.level = .dc) :
    fetch s = fetchDc s := by
  rw [fetch, hphase, hlevel]

theorem fetch_ac {s : State} (hphase : s.status.phase = .busyDec) (hlevel : s.walk.level = .ac) :
    fetch s = fetchAc s := by
  rw [fetch, hphase, hlevel]

/-- Settles O3: the fetch is that of a command, and no command leaves a decode for `complete` to go on with. -/
theorem stepRunsTheIssuedCommand : Obligations.StepRunsTheIssuedCommand := by
  intro s t r rs i hcommand hrequests hdecode hexec
  obtain rfl : decodeCommand r = i := Decoded.instr.inj hdecode
  have hfetch : fetch s = .run (decodeCommand r) { s with port := { s.port with requests := rs } } := by
    rw [fetch_command hcommand, fetchCommand, hrequests]
  rw [step_of_run hfetch hexec, complete_of_phase_ne (exec_decodeCommand_phase_ne hexec)]

/-- The bytes at the read cursor, by their addresses. -/
theorem Reader.byte?_of_holds {r : Reader} {bytes : List Byte} (h : r.holds bytes = true) {i : Nat}
    (hi : i < bytes.length) : r.byte? (r.rp + i) = bytes[i]? := by
  obtain ⟨rest, hdrop⟩ := (Reader.holds_iff r bytes).mp h
  rw [Reader.byte?, ← List.getElem?_drop, hdrop, List.getElem?_append_left hi]

theorem fillRun_replicate_append (n : Nat) (bytes : List Byte) :
    fillRun (List.replicate n 0xFF ++ bytes) = n + fillRun bytes := by
  induction n with
  | zero => simp
  | succ n ih => rw [List.replicate_succ, List.cons_append, fillRun, if_pos rfl, ih]; omega

theorem fillRun_cons_of_ne {b : Byte} (h : b ≠ 0xFF) (bytes : List Byte) : fillRun (b :: bytes) = 0 := by
  rw [fillRun, if_neg h]

/-- Skipping the fill bytes in front of a marker's code byte (spec R81, R136). -/
theorem Reader.skipFill_of_holds {r : Reader} {n : Nat} {m : Byte}
    (h : r.holds (List.replicate n 0xFF ++ [m]) = true) (hm : m ≠ 0xFF) {i : Nat} (hi : i ≤ n) :
    r.skipFill (r.rp + i) = r.rp + n := by
  obtain ⟨rest, hdrop⟩ := (Reader.holds_iff r _).mp h
  have hsplit : (List.replicate n (0xFF : Byte) ++ [m] ++ rest).drop i = List.replicate (n - i) 0xFF ++ (m :: rest) := by
    rw [List.append_assoc, List.drop_append_of_le_length (by simpa using hi), List.drop_replicate, List.singleton_append]
  rw [Reader.skipFill, ← List.drop_drop, hdrop, hsplit, fillRun_replicate_append, fillRun_cons_of_ne hm]
  omega

theorem Reader.byte?_code_of_holds {r : Reader} {n : Nat} {m : Byte}
    (h : r.holds (List.replicate n 0xFF ++ [m]) = true) : r.byte? (r.rp + n) = some m := by
  rw [Reader.byte?_of_holds h (by simp)]
  simp

/-- The state past a marker with `fills` fill bytes (spec R136). -/
def State.pastMarker (s : State) (fills : Nat) : State :=
  { s with reader := { s.reader with rp := s.reader.rp + fills + 2, rcnt := 0 } }

/-- `read_marker` of a marker with its fill bytes (spec R136). -/
theorem readMarker_run_of_holds {s : State} {fills : Nat} {m : Byte}
    (h : s.reader.holds (List.replicate (fills + 1) 0xFF ++ [m]) = true) (hff : m ≠ 0xFF) :
    readMarker.run s =
      if m = 0x00 then .error (.raised .invalidMarker (s.reader.rp + (fills + 1))) s
      else .ok m (s.pastMarker fills) := by
  have hfirst : s.reader.byte? s.reader.rp = some 0xFF := by
    have := Reader.byte?_of_holds h (i := 0) (by simp)
    simpa using this
  rw [readMarker, Proc.get_bind_run]
  simp only [hfirst, ne_eq, not_true, if_false, Reader.skipFill_of_holds h hff (Nat.le_add_left 1 fills),
    Reader.byte?_code_of_holds h]
  split <;> rfl

/-- Where no marker stands (spec R136). -/
theorem readMarker_run_of_byte_ne {s : State} {b : Byte} (h : s.reader.byte? s.reader.rp = some b) (hb : b ≠ 0xFF) :
    readMarker.run s = .error (.raised .invalidMarker s.reader.rp) s := by
  rw [readMarker, Proc.get_bind_run]
  simp only [h, if_pos hb, raise_run]

/-- Where the buffer ends before the code byte (spec R136). -/
theorem readMarker_run_of_end {s : State} {fills : Nat}
    (h : s.reader.inp.drop s.reader.rp = List.replicate fills 0xFF) :
    ∃ pos, readMarker.run s = .error (.raised .unexpectedEndOfStream pos) s := by
  have hbyte : ∀ i, s.reader.byte? (s.reader.rp + i) = (List.replicate fills (0xFF : Byte))[i]? := fun i => by
    rw [Reader.byte?, ← List.getElem?_drop, h]
  rw [readMarker, Proc.get_bind_run]
  cases fills with
  | zero =>
    have hend : s.reader.byte? s.reader.rp = none := hbyte 0
    exact ⟨s.reader.rp, by simp only [hend, raise_run]⟩
  | succ fills =>
    have hfirst : s.reader.byte? s.reader.rp = some 0xFF := hbyte 0
    have hskip : s.reader.skipFill (s.reader.rp + 1) = s.reader.rp + (fills + 1) := by
      have hrun := fillRun_replicate_append fills []
      rw [List.append_nil, fillRun] at hrun
      rw [Reader.skipFill, ← List.drop_drop, h, List.drop_replicate, Nat.add_sub_cancel, hrun]
      omega
    have hcode : s.reader.byte? (s.reader.rp + (fills + 1)) = none := by rw [hbyte]; simp
    exact ⟨_, by simp only [hfirst, hskip, hcode]; rfl⟩

theorem exec_readMarker (s : State) : exec .readMarker s = runProc Value.byte readMarker s := by rfl

/-- Settles O34: by what stands at the read cursor: a code byte behind fill bytes, another byte, fill bytes alone. -/
theorem readMarkerSkipsFillBytes : Obligations.ReadMarkerSkipsFillBytes := by
  refine ⟨fun s fills m h hff => ⟨fun hzero => ?_, fun hzero => ?_⟩, fun s b h hb => ?_, fun s fills h => ?_⟩
  · rw [exec_readMarker, runProc_ok _ ((readMarker_run_of_holds h hff).trans (if_neg hzero)), State.pastMarker]
  · rw [exec_readMarker]
    exact runProc_raised _ ((readMarker_run_of_holds h hff).trans (if_pos hzero))
  · rw [exec_readMarker]
    exact runProc_raised _ (readMarker_run_of_byte_ne (Reader.byte?_of_holds h (i := 0) (by simp)) hb)
  · obtain ⟨pos, hrun⟩ := readMarker_run_of_end h
    rw [exec_readMarker]
    exact runProc_raised _ hrun

/-- The state as the marker's rule finds it, the marker read (preamble of 43_decoder.md, spec R182). -/
def State.atMarker (s : State) (fills : Nat) : State :=
  { s with reader := { s.reader with rp := s.reader.rp + fills + 2, rcnt := 0 }
           walk := { s.walk with mpos := s.reader.rp - s.walk.fills, fills := 0 } }

theorem setMpos_readMarker_run {s : State} {fills : Nat} {m : Byte}
    (h : s.reader.holds (List.replicate (fills + 1) 0xFF ++ [m]) = true) (hff : m ≠ 0xFF) (hzero : m ≠ 0x00) :
    (setMpos >>= fun _ => readMarker).run s = .ok m (s.atMarker fills) := by
  have hheld : ({ s with walk := { s.walk with mpos := s.reader.rp - s.walk.fills, fills := 0 } } : State).reader.holds
      (List.replicate (fills + 1) 0xFF ++ [m]) = true := h
  exact (readMarker_run_of_holds hheld hff).trans (if_neg hzero)

theorem fetchMarker_run_fill {s : State} (h : s.reader.holds [0xFF, 0xFF] = true) : fetchMarker.run s = .ok .fill s := by
  obtain ⟨h0, h1⟩ := (Reader.holds_pair_iff _ _ _).mp h
  rw [fetchMarker, Proc.get_bind_run]
  simp only [h0, h1]
  rfl

/-- The fetch of a marker without fill bytes reads it, whatever its code byte (spec R81, R182). -/
theorem fetchMarker_run_marker {s : State} {m : Byte} (h : s.reader.holds [0xFF, m] = true) (hff : m ≠ 0xFF) :
    fetchMarker.run s = .ok (decodeMarkerCode m) (s.atMarker 0) := by
  obtain ⟨h0, h1⟩ := (Reader.holds_pair_iff _ _ _).mp h
  rw [fetchMarker, Proc.get_bind_run]
  simp only [h0, h1, decide_true, Bool.true_and, decide_eq_true_eq, if_neg hff]
  by_cases hzero : m = 0x00
  · subst hzero
    rfl
  · have hread := setMpos_readMarker_run (fills := 0) h hff hzero
    rw [if_neg hzero]
    rw [Proc.bind_run] at hread ⊢
    cases hset : setMpos.run s with
    | error e t => rw [hset] at hread; cases hread
    | ok u t =>
      rw [hset] at hread
      exact Proc.bind_run_ok hread

theorem fetchSoi_run {s : State} {rest : List Byte} (h : s.reader.inp = 0xFF :: 0xD8 :: rest) :
    fetchSoi.run s = .ok .soi { s with reader := { s.reader with rp := 2, rcnt := 0 }
                                       walk := { s.walk with mpos := 0, fills := 0 } } := by
  obtain ⟨h0, h1⟩ := (Reader.byte?_zero_one_iff s.reader _ _).mpr ⟨rest, h⟩
  have hlen : ¬ s.reader.inlen < 2 := by simp [Reader.inlen, h]
  rw [fetchSoi, Proc.get_bind_run]
  simp only [hlen, h0, h1, if_false]
  rfl

theorem step_of_fetchProc {s t t' : State} {i : Instr} {p : Proc Instr} (hfetch : fetch s = .ofResult (p.run s))
    (hrun : p.run s = .ok i t) (hexec : exec i t = .next t') : step s = .next (complete s.walk.level i t') :=
  step_of_run (by rw [hfetch, hrun, Fetched.ofResult]) hexec

/-- Settles O4: one fetch for each thing that can stand at the cursor. -/
theorem stepRunsTheMarkerAtTheCursor : Obligations.StepRunsTheMarkerAtTheCursor := by
  refine ⟨fun s t m i hphase hlevel hsoi hholds hff hdecode hexec => ?_, fun s t hphase hlevel hsoi hholds hexec => ?_,
    fun s t rest hphase hlevel hsoi hinp hexec => ?_⟩
  · obtain rfl : decodeMarkerCode m = i := Decoded.instr.inj hdecode
    have hfetch := fetch_marker hphase hlevel
    rw [hsoi, if_pos rfl] at hfetch
    rw [step_of_fetchProc hfetch (fetchMarker_run_marker hholds hff) hexec, hlevel]
  · have hfetch := fetch_marker hphase hlevel
    rw [hsoi, if_pos rfl] at hfetch
    rw [step_of_fetchProc hfetch (fetchMarker_run_fill hholds) hexec, hlevel]
  · have hfetch := fetch_marker hphase hlevel
    rw [hsoi, if_neg Bool.false_ne_true] at hfetch
    rw [step_of_fetchProc hfetch (fetchSoi_run hinp) hexec, hlevel]

theorem complete_dc_stuff (t : State) : complete .dc .stuff t = t := by
  unfold complete
  split <;> rfl

theorem complete_ac_stuff (t : State) : complete .ac .stuff t = t := by
  unfold complete
  split <;> rfl

theorem complete_mcu_pad (n : Nat) (t : State) : complete .mcu (.pad n) t = t := by
  unfold complete
  split <;> rfl

theorem fetchDc_of_run {s s1 : State} {sym : Byte} (hstuff : s.reader.atStuff = false)
    (h : (huffDecode .dc s.walk.du.td).run s = .ok sym s1) : fetchDc s = .run (decodeDcSymbol sym) s1 := by
  rw [fetchDc, if_neg (by rw [hstuff]; decide), Proc.bind_run_ok h]
  rfl

theorem fetchAc_of_run {s s1 : State} {sym : Byte} (hstuff : s.reader.atStuff = false)
    (h : (huffDecode .ac s.walk.du.ta).run s = .ok sym s1) : fetchAc s = .run (decodeAcSymbol sym) s1 := by
  rw [fetchAc, if_neg (by rw [hstuff]; decide), Proc.bind_run_ok h]
  rfl

/-- Settles O5: the fetches of a symbol, of an escape in front of one, and of the padding. -/
theorem stepRunsTheEntropySymbol : Obligations.StepRunsTheEntropySymbol := by
  refine ⟨fun s s1 t sym i hphase hlevel hstuff hrun hdecode hexec => ?_,
    fun s s1 t sym i hphase hlevel hstuff hrun hdecode hexec => ?_, fun s t hphase hlevel hstuff hexec => ?_,
    fun s t hphase hlevel hmcu hlow hhigh hexec => ?_⟩
  · obtain rfl : decodeDcSymbol sym = i := Decoded.instr.inj hdecode
    rw [step_of_run ((fetch_dc hphase hlevel).trans (fetchDc_of_run hstuff hrun)) hexec, hlevel]
  · obtain rfl : decodeAcSymbol sym = i := Decoded.instr.inj hdecode
    rw [step_of_run ((fetch_ac hphase hlevel).trans (fetchAc_of_run hstuff hrun)) hexec, hlevel]
  · rcases hlevel with hlevel | hlevel
    · rw [step_of_run ((fetch_dc hphase hlevel).trans (if_pos hstuff)) hexec, hlevel, complete_dc_stuff]
    · rw [step_of_run ((fetch_ac hphase hlevel).trans (if_pos hstuff)) hexec, hlevel, complete_ac_stuff]
  · have hfetch : fetch s = .run (.pad s.reader.rcnt) s := by
      rw [fetch_mcu hphase hlevel, fetchMcu, if_neg (Nat.not_lt.mpr hmcu), if_pos (by simp [hlow, hhigh])]
    rw [step_of_run hfetch hexec, hlevel, complete_mcu_pad]

end Sys2Proof.Machine
end

section
/-! PROOFS of the commands: reset, phases, cells and QUANT (spec R41, R99, R180, R241, R283, R350). -/

namespace Sys2Proof.Machine

/-- Settles O60: the reset state is a closed term. -/
theorem resetStateIsLegal : Obligations.ResetStateIsLegal := by
  unfold Obligations.ResetStateIsLegal
  decide

/-- Settles O8: the block's part of RESET is the reset state's, field by field. -/
theorem resetRestoresThePowerOnState : Obligations.ResetRestoresThePowerOnState := by
  refine ⟨fun s => exec_reset s, rfl, rfl, rfl, rfl, rfl, rfl, rfl, rfl, rfl, by decide, fun tc th => ?_, rfl, rfl⟩
  cases tc <;> revert th <;> decide

/-- A stop of an encode, or of a command that emptied `OUT`, leaves it empty (spec R259). -/
theorem Writer.afterStop_out_nil {w : Writer} (h : w.out = []) (p : Phase) : (w.afterStop p).out = [] := by
  cases p <;> first | exact h | rfl

theorem exec_encode (s : State) : exec .encode s = runUnit encodeCommandProc s := by rfl

theorem exec_decode (buf : List Byte) (s : State) : exec (.decode buf) s = runUnit (decodeCommandProc buf) s := by rfl

theorem exec_rdcoef (c row col i : Nat) (s : State) :
    exec (.rdcoef c row col i) s = runProc Value.int (rdcoefProc c row col i) s := by rfl

theorem exec_wrcoef (c row col i : Nat) (v : Int) (s : State) :
    exec (.wrcoef c row col i v) s = runUnit (wrcoefProc c row col i v) s := by rfl

/-- An ENCODE of a stream with no scan or several empties `OUT` all the same (spec R241, R259). -/
theorem encodeCommandProc_run_of_nscan_ne {s : State} (hphase : s.status.phase = .decoded) (hscans : s.image.nscan ≠ 1) :
    encodeCommandProc.run s = .error (.refused .scanCount) { s with writer := { s.writer with out := [] } } := by
  rw [encodeCommandProc, Proc.get_bind_run, if_neg (not_not.mpr hphase), if_pos hscans]
  rfl

theorem exec_encode_refused {s : State} {reason : Reason}
    (h : encodeCommandProc.run s = .error (.refused reason) { s with writer := { s.writer with out := [] } }) :
    ∃ t, exec .encode s = .next t ∧ t.refusedWith reason ∧ t.writer.out = [] :=
  ⟨_, (exec_encode s).trans (runUnit_error h), ⟨rfl, rfl⟩, Writer.afterStop_out_nil rfl _⟩

/-- Settles O10: each command by its phase check. -/
theorem commandsAreRefusedOutOfPhase : Obligations.CommandsAreRefusedOutOfPhase := by
  refine ⟨fun s hphase => ⟨?_, fun c row col => ?_, fun c row col d => ?_, fun c row col i => ?_,
    fun c row col i v => ?_⟩, fun s hphase hscans => ?_, fun s buf hdecoded hidle => ?_, fun s code => ?_⟩
  · exact exec_encode_refused (encodeCommandProc_run_of_phase_ne hphase)
  · exact runProc_refused _ (onDecoded_run_of_phase_ne hphase _)
  · exact runProc_refused _ (onDecoded_run_of_phase_ne hphase _)
  · exact runProc_refused _ (onDecoded_run_of_phase_ne hphase _)
  · exact runProc_refused _ (onDecoded_run_of_phase_ne hphase _)
  · exact exec_encode_refused (encodeCommandProc_run_of_nscan_ne hphase hscans)
  · exact runProc_refused _ (decodeCommandProc_run_of_phase_ne hidle hdecoded buf)
  · obtain ⟨t, ht, hrefused, -⟩ := exec_reservedCommand_refused code s
    exact ⟨t, ht, hrefused⟩

/-- The state in which DECODE checks for SOI: the rows marked † at their reset values, the buffer in place (spec R180). -/
def State.begun (s : State) (buf : List Byte) : State :=
  { s with
    reader := { Reader.reset with inp := buf }, work := Work.reset, image := Image.reset
    walk := { Sequencer.reset with level := .marker }, status := { s.status with phase := .busyDec } }

theorem decodeCommandProc_run {s : State} (h : s.status.phase = .idle ∨ s.status.phase = .decoded) (buf : List Byte) :
    (decodeCommandProc buf).run s =
      (checkSoi >>= fun _ => walk >>= fun _ => setPhase .decoded .command).run (s.begun buf) := by
  have hphase : ¬ (s.status.phase ≠ .idle && s.status.phase ≠ .decoded) = true := by
    rcases h with h | h <;> simp [h]
  rw [decodeCommandProc, Proc.get_bind_run]
  dsimp only
  rw [if_neg hphase]
  rfl

/-- Settles O11: what DECODE begins with does not depend on the rows it resets. -/
theorem decodeForgetsTheEarlierImage : Obligations.DecodeForgetsTheEarlierImage := by
  intro s buf hphase
  have hforgotten := decodeCommandProc_run
    (s := { s with reader := Reader.reset, work := Work.reset, image := Image.reset, walk := Sequencer.reset }) hphase buf
  rw [exec_decode, exec_decode, runUnit, runUnit, runProc, runProc, decodeCommandProc_run hphase, hforgotten]
  rfl

/-- The grid of a component has fewer than `2^16` rows or columns: MCUs times a factor not above the largest one (spec
R196, log entry 9). -/
theorem ceilDiv_mul_lt {n factor top : Nat} (hn : n < 65536) (hle : factor ≤ top) (htop : top ≤ 15) :
    ceilDiv n (8 * top) * factor < 65536 := by
  have hmul : ceilDiv n (8 * top) * (8 * top) ≤ n + 8 * top - 1 := Nat.div_mul_le_self _ _
  have hgrid : ceilDiv n (8 * top) * factor ≤ ceilDiv n (8 * top) * top := Nat.mul_le_mul_left _ hle
  rw [Nat.mul_left_comm] at hmul
  omega

theorem le_foldl_max (l : List Nat) (a : Nat) : a ≤ l.foldl max a ∧ ∀ x ∈ l, x ≤ l.foldl max a := by
  induction l generalizing a with
  | nil => simp
  | cons y l ih =>
    obtain ⟨hinit, hmem⟩ := ih (max a y)
    rw [List.foldl_cons]
    refine ⟨(le_max_left a y).trans hinit, fun x hx => ?_⟩
    rcases List.mem_cons.mp hx with rfl | hx
    · exact (le_max_right a x).trans hinit
    · exact hmem x hx

theorem foldl_max_le {l : List Nat} {a b : Nat} (ha : a ≤ b) (hl : ∀ x ∈ l, x ≤ b) : l.foldl max a ≤ b := by
  induction l generalizing a with
  | nil => exact ha
  | cons y l ih =>
    exact ih (max_le ha (hl y List.mem_cons_self)) fun x hx => hl x (List.mem_cons_of_mem y hx)

theorem Frame.comp_mem {f : Frame} {c : Nat} (h : c < f.nf) : f.comp c ∈ f.comps := by
  rw [Frame.comp, List.getD_eq_getElem _ _ h]
  exact List.getElem_mem h

theorem Frame.v_le_vmax {f : Frame} {c : Nat} (h : c < f.nf) : (f.comp c).v.toNat ≤ f.vmax :=
  (le_foldl_max _ 0).2 _ (List.mem_map_of_mem (Frame.comp_mem h))

theorem Frame.h_le_hmax {f : Frame} {c : Nat} (h : c < f.nf) : (f.comp c).h.toNat ≤ f.hmax :=
  (le_foldl_max _ 0).2 _ (List.mem_map_of_mem (Frame.comp_mem h))

theorem Frame.vmax_le (f : Frame) : f.vmax ≤ 15 := by
  refine foldl_max_le (Nat.zero_le _) fun x hx => ?_
  obtain ⟨c, -, rfl⟩ := List.mem_map.mp hx
  exact Nat.le_of_lt_succ c.v.isLt

theorem Frame.hmax_le (f : Frame) : f.hmax ≤ 15 := by
  refine foldl_max_le (Nat.zero_le _) fun x hx => ?_
  obtain ⟨c, -, rfl⟩ := List.mem_map.mp hx
  exact Nat.le_of_lt_succ c.h.isLt

theorem Frame.bh_lt {f : Frame} {c : Nat} (h : c < f.nf) : f.bh c < 65536 :=
  ceilDiv_mul_lt f.y.isLt (Frame.v_le_vmax h) f.vmax_le

theorem Frame.bw_lt {f : Frame} {c : Nat} (h : c < f.nf) : f.bw c < 65536 :=
  ceilDiv_mul_lt f.x.isLt (Frame.h_le_hmax h) f.hmax_le

/-- Below the bounds of the flat address the coordinates can be read off it (log entry 9). -/
theorem cellAddr_inj {c row col i c' row' col' i' : Nat} (hrow : row < 65536) (hcol : col < 65536) (hi : i < 64)
    (hrow' : row' < 65536) (hcol' : col' < 65536) (hi' : i' < 64)
    (h : cellAddr c row col i = cellAddr c' row' col' i') : c = c' ∧ row = row' ∧ col = col' ∧ i = i' := by
  simp only [cellAddr] at h
  omega

theorem Frame.hasCell_iff {f : Frame} {c row col i : Nat} :
    f.hasCell c row col i = true ↔ c < f.nf ∧ row < f.bh c ∧ col < f.bw c ∧ i ≤ 63 := by
  simp [Frame.hasCell, Frame.hasBlock, and_assoc]

theorem Frame.hasCell_bounds {f : Frame} {c row col i : Nat} (h : f.hasCell c row col i = true) :
    row < 65536 ∧ col < 65536 ∧ i < 64 := by
  obtain ⟨hc, hrow, hcol, hi⟩ := Frame.hasCell_iff.mp h
  exact ⟨hrow.trans (Frame.bh_lt hc), hcol.trans (Frame.bw_lt hc), Nat.lt_succ_of_le hi⟩

/-- Settles O12: the flat address is one to one on a frame, and the two commands are a read and a write at it. -/
theorem coefficientCommandsReachOneCell : Obligations.CoefficientCommandsReachOneCell := by
  refine ⟨fun f c row col i c' row' col' i' h h' haddr => ?_, fun s c row col i v hphase hwf => ⟨fun hin => ?_, fun hout => ?_⟩⟩
  · obtain ⟨hrow, hcol, hi⟩ := Frame.hasCell_bounds h
    obtain ⟨hrow', hcol', hi'⟩ := Frame.hasCell_bounds h'
    exact cellAddr_inj hrow hcol hi hrow' hcol' hi' haddr
  · have hcell := Frame.hasCell_iff.mpr hin
    refine ⟨?_, s.image.plane.write (cellAddr c row col i) v, ?_, Memory.read_write_same _ _ _ hwf,
      fun a ha => Memory.read_write_other _ _ _ _ ha⟩
    · rw [exec_rdcoef]
      exact runProc_ok _ (onDecoded_run_of_inRange hphase hcell _)
    · rw [exec_wrcoef]
      exact runUnit_ok (onDecoded_run_of_inRange hphase hcell _)
  · have hcell := mt Frame.hasCell_iff.mp hout
    exact ⟨runProc_refused _ (onDecoded_run_of_not_inRange hphase hcell _),
      runProc_refused _ (onDecoded_run_of_not_inRange hphase hcell _)⟩

/-- A tie of a dividend that is not negative goes up. -/
theorem ediv_half_up_tie {a : Int} (ha : 0 ≤ a) {q : Nat} (hq : 0 < q)
    (h : 2 * (a - (2 * a + q) / (2 * q) * (q : Int)).natAbs = q) :
    a.natAbs ≤ ((2 * a + q) / (2 * q) * (q : Int)).natAbs := by
  have hpos : (0 : Int) < 2 * q := by omega
  have hlow := Int.ediv_mul_le (2 * a + q) hpos.ne'
  have hhigh := Int.lt_ediv_add_one_mul_self (2 * a + q) hpos
  generalize (2 * a + q) / (2 * (q : Int)) = n at *
  rw [add_mul, one_mul] at hhigh
  rw [mul_left_comm] at hlow hhigh
  omega

/-- `rdiv` answers, of two nearest integers, the one away from zero (spec R283). -/
theorem rdiv_tie (a : Int) {q : Nat} (hq : 0 < q) (h : 2 * (a - rdiv a q * (q : Int)).natAbs = q) :
    a.natAbs ≤ (rdiv a q * (q : Int)).natAbs := by
  rw [rdiv] at h ⊢
  split
  · rename_i ha
    rw [if_pos ha] at h
    exact ediv_half_up_tie ha hq h
  · rename_i ha
    have htie := ediv_half_up_tie (a := -a) (by omega) hq
    rw [if_neg ha] at h
    rw [neg_mul] at h ⊢
    generalize (2 * -a + q) / (2 * (q : Int)) * q = m at *
    omega

theorem exec_rdiv {q : Nat} (hq : 0 < q) (a : Int) (s : State) :
    exec (.rdiv a q) s = .next (s.returning (.int (rdiv a q))) := by
  show execRdiv a q s = _
  rw [execRdiv, if_pos hq, runPure_eq]

/-- QUANT by a table with a zero entry is refused before it writes (spec R283). -/
theorem State.HasTable.exec_quant_of_zero {s : State} {c row col : Nat} {q : Vector Half 64} (h : s.HasTable c row col q)
    (hzero : ∃ i : Fin 64, q[i] = 0) (d : Vector Int 64) :
    exec (.quant c row col d) s = .next (takeRefusal .divideByZero s) := by
  have hany : (q.toList.any fun e => e == 0) = true := by
    obtain ⟨i, hi⟩ := hzero
    refine List.any_eq_true.mpr ⟨q[i], ?_, by simp [hi]⟩
    rw [Vector.mem_toList_iff]
    exact Vector.getElem_mem i.isLt
  rw [Machine.exec_quant]
  refine runUnit_error (e := .refused .divideByZero) ?_
  rw [quantProc, onDecoded_run_of_inRange h.phase h.block, Proc.bind_run_ok h.tableOf_run, if_pos hany, refuse_run]

/-- Without a table of the component QUANT is refused (spec R281, R283). -/
theorem exec_quant_of_not_valid {s : State} {c row col : Nat} (hphase : s.status.phase = .decoded)
    (hblock : s.image.frame.hasBlock c row col = true)
    (hvalid : s.image.qt[(s.image.frame.comp c).tq].valid = false) (d : Vector Int 64) :
    ∃ t, exec (.quant c row col d) s = .next t ∧ t.refusedWith .missingTable := by
  rw [exec_quant]
  refine runProc_refused (s' := s) _ ?_
  rw [quantProc, onDecoded_run_of_inRange hphase hblock,
    Proc.bind_run_error ((tableOf_run c s).trans (if_neg (by rw [hvalid]; decide)))]

/-- Settles O14: QUANT by its checks in order, and the law of `rdiv`. -/
theorem quantStoresTheNearestQuotients : Obligations.QuantStoresTheNearestQuotients := by
  refine ⟨fun s c row col d hphase hwf hc hrow hcol => ?_, fun s c row col d hphase hout => ?_,
    fun s c row col d hphase => ?_, fun s a q hq => ⟨exec_rdiv hq a s, rdiv_near a hq, rdiv_tie a hq⟩⟩
  · have hblock := Frame.hasBlock_iff.mpr ⟨hc, hrow, hcol⟩
    refine ⟨fun hvalid hq => ?_, fun hvalid hzero => ?_, fun hvalid => exec_quant_of_not_valid hphase hblock hvalid d⟩
    · have htable : s.HasTable c row col _ := ⟨hphase, hblock, hvalid, rfl⟩
      refine ⟨_, htable.exec_quant hq d, fun i => ?_, fun a ha => Memory.read_writeBlock_other _ _ _ _ _ a ha⟩
      rw [Memory.read_writeBlock _ _ _ _ _ i hwf, quantized_getElem]
    · have htable : s.HasTable c row col _ := ⟨hphase, hblock, hvalid, rfl⟩
      exact ⟨_, htable.exec_quant_of_zero hzero d, ⟨rfl, rfl⟩, rfl⟩
  · exact runProc_refused _ (onDecoded_run_of_not_inRange hphase (mt Frame.hasBlock_iff.mp hout) _)
  · exact runProc_refused _ (onDecoded_run_of_phase_ne hphase _)

end Sys2Proof.Machine
end

section
/-! PROOFS of the rows run alone: rejected markers, SOI and RSTn, symbols, escapes, the bit reader (spec R131 to R136, R181,
R190 to R195, R200, R201, R203). -/

namespace Sys2Proof.Machine

/-- Settles O19: each of these rows raises its kind and does nothing else. -/
theorem rejectedMarkersAreReported : Obligations.RejectedMarkersAreReported := by
  refine ⟨fun s i hi => ?_, fun s => ⟨takeError .unsupportedArithmeticCoding s.walk.mpos s, rfl, ⟨rfl, rfl⟩, rfl⟩,
    fun s m => ⟨takeError .invalidMarker s.walk.mpos s, rfl, ⟨rfl, rfl⟩, rfl⟩,
    fun s => ⟨takeError .invalidMarker (s.reader.rp - 1) s, rfl, ⟨rfl, rfl⟩, rfl⟩⟩
  refine ⟨takeError .unsupportedMode s.walk.mpos s, ?_, ⟨rfl, rfl⟩, rfl⟩
  simp only [List.mem_cons, List.not_mem_nil, or_false] at hi
  obtain rfl | rfl | rfl | rfl | rfl | rfl | rfl | rfl | rfl | rfl | rfl | rfl | rfl := hi <;> rfl

/-- SOI: accepted at its place, misplaced elsewhere (spec R181, R195). -/
theorem soiRule_run (s : State) :
    soiRule.run s =
      if s.image.fSoi = false ∧ s.reader.rp = 2 then .ok () { s with image := { s.image with fSoi := true } }
      else .error (.raised .invalidMarker s.walk.mpos) s := by
  rw [soiRule, Proc.get_bind_run]
  by_cases h : s.image.fSoi = false ∧ s.reader.rp = 2
  · obtain ⟨hsoi, hrp⟩ := h
    simp only [hsoi, hrp, decide_true, Bool.and_self, and_self, if_true]
    rfl
  · have hcond : ¬ (decide (s.image.fSoi = false) && decide (s.reader.rp = 2)) = true := by simpa using h
    rw [if_neg h, if_neg hcond, misplacedMarker_run]

/-- RSTn: by its place, then by its number (spec R195, R203). -/
theorem rstRule_run (n : BitVec 3) (s : State) :
    (rstRule n).run s =
      if s.walk.level = .mcu then
        if n = s.work.rstn then restartEffect.run s else .error (.raised .missingRestartMarker s.walk.mpos) s
      else .error (.raised .invalidMarker s.walk.mpos) s := by
  rw [rstRule, Proc.get_bind_run]
  split_ifs <;> rfl

/-- The bytes of a list are its leading `0xFF` and what follows them. -/
theorem replicate_fillRun_append (bytes : List Byte) :
    bytes = List.replicate (fillRun bytes) 0xFF ++ bytes.drop (fillRun bytes) := by
  induction bytes with
  | nil => rfl
  | cons b bytes ih =>
    by_cases hb : b = 0xFF
    · subst hb
      rw [fillRun, if_pos rfl, List.replicate_succ, List.cons_append, List.drop_succ_cons, ← ih]
    · rw [fillRun_cons_of_ne hb]
      rfl

/-- A byte behind the fill bytes at the cursor stands there behind as many `0xFF`. -/
theorem Reader.holds_of_byte?_skipFill {r : Reader} {m : Byte} (h : r.byte? (r.skipFill r.rp) = some m) :
    r.holds (List.replicate (fillRun (r.inp.drop r.rp)) 0xFF ++ [m]) = true := by
  rw [Reader.byte?, Reader.skipFill, ← List.getElem?_drop] at h
  have hrest : (r.inp.drop r.rp).drop (fillRun (r.inp.drop r.rp)) =
      m :: (r.inp.drop r.rp).drop (fillRun (r.inp.drop r.rp) + 1) := by
    obtain ⟨hlt, hget⟩ := List.getElem?_eq_some_iff.mp h
    rw [List.drop_eq_getElem_cons hlt, hget]
  refine (Reader.holds_iff r _).mpr ⟨(r.inp.drop r.rp).drop (fillRun (r.inp.drop r.rp) + 1), ?_⟩
  rw [List.append_assoc, List.singleton_append, ← hrest]
  exact replicate_fillRun_append _

theorem Reader.byte?_head_of_holds {r : Reader} {fills : Nat} {m : Byte}
    (h : r.holds (List.replicate (fills + 1) 0xFF ++ [m]) = true) : r.byte? r.rp = some 0xFF := by
  simpa using Reader.byte?_of_holds h (i := 0) (by simp)

theorem rst_code_ne_ff : ∀ n : BitVec 3, (0xD0 + n.zeroExtend 8 : Byte) ≠ 0xFF := by decide

/-- `restart` over the expected marker (spec R203). -/
theorem restart_run_of_holds {s : State} {fills : Nat}
    (h : s.reader.holds (List.replicate (fills + 1) 0xFF ++ [0xD0 + s.work.rstn.zeroExtend 8]) = true) :
    restart.run s = restartEffect.run (s.pastMarker fills) := by
  have hskip : s.reader.skipFill s.reader.rp = s.reader.rp + (fills + 1) :=
    Reader.skipFill_of_holds h (rst_code_ne_ff _) (Nat.zero_le _)
  have hfirst := Reader.byte?_head_of_holds h
  have hcode := Reader.byte?_code_of_holds h
  rw [restart, Proc.bind_run_ok (alignToByte_run s), Proc.get_bind_run]
  simp only [Reader.byte?, Reader.skipFill] at hskip hfirst hcode ⊢
  simp only [hskip, hfirst, hcode, ne_eq, not_true, if_false]
  rfl

/-- `restart` where the expected marker does not stand (spec R203). -/
theorem restart_run_missing {s : State}
    (h : ∀ fills, s.reader.holds (List.replicate (fills + 1) 0xFF ++ [0xD0 + s.work.rstn.zeroExtend 8]) = false) :
    ∃ t, restart.run s = .error (.raised .missingRestartMarker s.reader.rp) t := by
  refine ⟨{ s with reader := { s.reader with rcnt := 0 } }, ?_⟩
  rw [restart, Proc.bind_run_ok (alignToByte_run s), Proc.get_bind_run]
  by_cases hfirst : s.reader.byte? s.reader.rp = some 0xFF
  · have hother : s.reader.byte? (s.reader.skipFill s.reader.rp) ≠ some (0xD0 + s.work.rstn.zeroExtend 8) := by
      intro hcode
      have hholds := Reader.holds_of_byte?_skipFill hcode
      cases hrun : fillRun (s.reader.inp.drop s.reader.rp) with
      | zero =>
        rw [Reader.skipFill, hrun, Nat.add_zero, hfirst] at hcode
        exact rst_code_ne_ff _ (Option.some.inj hcode).symm
      | succ fills => exact Bool.false_ne_true ((h fills).symm.trans (hrun ▸ hholds))
    simp only [Reader.byte?, Reader.skipFill] at hfirst hother ⊢
    simp only [hfirst, ne_eq, not_true, if_false, hother, not_false_eq_true, if_true]
    rfl
  · simp only [Reader.byte?] at hfirst ⊢
    simp only [ne_eq, hfirst, not_false_eq_true, if_true]
    rfl

theorem exec_restart (s : State) : exec .restart s = runUnit restart s := by rfl

theorem exec_soi (s : State) : exec .soi s = runUnit soiRule s := by rfl

theorem exec_rst (n : BitVec 3) (s : State) : exec (.rst n) s = runUnit (rstRule n) s := by rfl

/-- Settles O26: the branches of the three rules. -/
theorem restartsAndSoiKeepTheirPlace : Obligations.RestartsAndSoiKeepTheirPlace := by
  refine ⟨fun s hsoi hrp => ?_, fun s hsoi => ?_, fun s n => ⟨fun hlevel hn => ?_, fun hlevel hn => ?_, fun hlevel => ?_⟩,
    fun s fills h => ?_, fun s h => ?_⟩
  · rw [exec_soi, runUnit_ok ((soiRule_run s).trans (if_pos ⟨hsoi, hrp⟩))]
  · rw [exec_soi]
    exact runUnit_raised ((soiRule_run s).trans (if_neg (by simp [hsoi])))
  · rw [exec_rst, runUnit_ok (((rstRule_run n s).trans (if_pos hlevel)).trans (if_pos hn)), hn]
  · rw [exec_rst]
    exact runUnit_raised (((rstRule_run n s).trans (if_pos hlevel)).trans (if_neg hn))
  · rw [exec_rst]
    exact runUnit_raised ((rstRule_run n s).trans (if_neg hlevel))
  · rw [exec_restart, runUnit_ok ((restart_run_of_holds h).trans (restartEffect_run _)), State.pastMarker]
  · obtain ⟨t, hrun⟩ := restart_run_missing h
    rw [exec_restart]
    exact runUnit_raised hrun

theorem exec_fetchByte (s : State) : exec .fetchByte s = runUnit fetchByte s := by rfl

theorem exec_readBit (s : State) : exec .readBit s = runProc Value.bool readBit s := by rfl

theorem exec_readBits (n : Nat) (s : State) : exec (.readBits n) s = runProc Value.nat (readBits n) s := by rfl

/-- Settles O32: what the three procedures answer on the reader registers. -/
theorem readerDeliversBitsInOrder : Obligations.ReaderDeliversBitsInOrder := by
  refine ⟨fun s => ⟨fun r hr => ?_, fun hend => ?_⟩, fun s => ⟨fun b r hbit => ?_, fun hend => ?_⟩,
    fun s n => ⟨fun hn bits r htake => ?_, fun hn hend => ?_, fun hn => ?_⟩⟩
  · have hrun := fetchByte_run s
    rw [hr] at hrun
    exact runUnit_ok hrun
  · have hrun := fetchByte_run s
    rw [hend] at hrun
    exact ⟨_, runUnit_error hrun, ⟨rfl, rfl⟩, rfl⟩
  · exact runProc_ok _ (readBit_run_of_nextBit hbit)
  · have hrun := readBit_run s
    rw [hend] at hrun
    exact ⟨_, runProc_error _ hrun, ⟨rfl, rfl⟩, rfl⟩
  · exact runProc_ok _ ((readBits_run n s hn).1 bits r htake)
  · obtain ⟨s', hrun, -⟩ := (readBits_run n s hn).2 hend
    exact runProc_raised _ hrun
  · exact runProc_refused _ (readBits_run_refused n s hn)

/-- The magnitude bits of a DC symbol, and the predictor moved (spec R200). -/
theorem dcSizeRule_run {s : State} {ci : Slot} {n : Fin 12} {bits : List Bool} {r : Reader}
    (h : s.reader.takeBits n.val = some (bits, r)) :
    (dcSizeRule ci n).run s = .ok () { s with
      reader := r
      work := { s.work with
        pred := s.work.pred.set ci (s.work.pred[ci] + extend (bitsToNat bits) n.val)
        cb := s.work.cb.set 0 (s.work.pred[ci] + extend (bitsToNat bits) n.val) } } := by
  rw [dcSizeRule, Proc.bind_run_ok ((readBits_run n.val s (by omega)).1 bits r h)]
  rfl

theorem dcSizeRule_run_end {s : State} (ci : Slot) {n : Fin 12} (h : s.reader.takeBits n.val = none) :
    ∃ s', (dcSizeRule ci n).run s = .error (.raised .unexpectedEndOfStream s'.reader.rp) s' := by
  obtain ⟨s', hrun, -⟩ := (readBits_run n.val s (by omega)).2 h
  exact ⟨s', Proc.bind_run_error hrun⟩

theorem exec_dcSize (n : Fin 12) (s : State) : exec (.dcSize n) s = runUnit (dcSizeRule s.walk.du.ci n) s := by rfl

/-- Settles O28: with the magnitude bits, without them, and the symbols above 11. -/
theorem dcSymbolsMoveThePredictor : Obligations.DcSymbolsMoveThePredictor := by
  refine ⟨fun s n bits r h => ?_, fun s n h => ?_, fun s sym => ⟨takeRefusal .dcSizeOutOfRange s, rfl, rfl, rfl⟩⟩
  · exact runUnit_ok (dcSizeRule_run h)
  · obtain ⟨s', hrun⟩ := dcSizeRule_run_end s.walk.du.ci h
    rw [exec_dcSize]
    exact runUnit_raised hrun

theorem zrlRule_run (s : State) :
    zrlRule.run s =
      if s.work.k ≤ 48 then .ok false { s with work := { s.work with k := s.work.k + 16 } }
      else .error (.refused .acIndexOverflow) s := by
  rw [zrlRule, Proc.get_bind_run]
  by_cases h : s.work.k ≤ 48
  · have hfits : ¬ 64 < s.work.k + 16 := by omega
    simp only [hfits, if_false, h, if_true]
    rfl
  · have hover : 64 < s.work.k + 16 := by omega
    simp only [hover, if_true, h, if_false]
    rfl

theorem setIfInBounds_eq_set {n i : Nat} (cb : Vector Int n) (v : Int) (h : i < n) :
    cb.setIfInBounds i v = cb.set i v h := by
  ext j hj
  simp [Vector.getElem_setIfInBounds, Vector.getElem_set]

/-- The general AC symbol stores the value of its magnitude bits behind its run (spec R201). -/
theorem acRunSizeRule_run {s : State} {run sz : BitVec 4} {bits : List Bool} {r : Reader}
    (h : s.work.k + run.toNat < 64) (htake : s.reader.takeBits sz.toNat = some (bits, r)) :
    (acRunSizeRule run sz).run s = .ok false { s with
      reader := r
      work := { s.work with
        cb := s.work.cb.set (s.work.k + run.toNat) (extend (bitsToNat bits) sz.toNat) h
        k := s.work.k + run.toNat + 1 } } := by
  have hfits : ¬ 63 < s.work.k + run.toNat := by omega
  have hread := (readBits_run sz.toNat { s with work := { s.work with k := s.work.k + run.toNat } }
    (by have := sz.isLt; omega)).1 bits r htake
  rw [acRunSizeRule, Proc.get_bind_run]
  simp only [hfits, if_false]
  rw [Proc.bind_run_ok (modifyWork_run _ s), Proc.bind_run_ok hread, ← setIfInBounds_eq_set]
  rfl

theorem acRunSizeRule_run_over {s : State} {run : BitVec 4} (sz : BitVec 4) (h : 64 ≤ s.work.k + run.toNat) :
    (acRunSizeRule run sz).run s = .error (.refused .acIndexOverflow) s := by
  have hover : 63 < s.work.k + run.toNat := by omega
  rw [acRunSizeRule, Proc.get_bind_run]
  simp only [hover, if_true, refuse_run]

theorem acRunSizeRule_run_end {s : State} {run sz : BitVec 4} (h : s.work.k + run.toNat < 64)
    (htake : s.reader.takeBits sz.toNat = none) :
    ∃ s', (acRunSizeRule run sz).run s = .error (.raised .unexpectedEndOfStream s'.reader.rp) s' := by
  have hfits : ¬ 63 < s.work.k + run.toNat := by omega
  obtain ⟨s', hread, -⟩ := (readBits_run sz.toNat { s with work := { s.work with k := s.work.k + run.toNat } }
    (by have := sz.isLt; omega)).2 htake
  refine ⟨s', ?_⟩
  rw [acRunSizeRule, Proc.get_bind_run]
  simp only [hfits, if_false]
  rw [Proc.bind_run_ok (modifyWork_run _ s), Proc.bind_run_error hread]

theorem exec_zrl (s : State) : exec .zrl s = runProc Value.bool zrlRule s := by rfl

theorem exec_acRunSize (run sz : BitVec 4) (s : State) :
    exec (.acRunSize run sz) s = runProc Value.bool (acRunSizeRule run sz) s := by rfl

/-- Settles O29: the three rules by whether the run fits. -/
theorem acSymbolsFillTheBlock : Obligations.AcSymbolsFillTheBlock := by
  refine ⟨fun s => rfl, fun s => ⟨fun hfits => ?_, fun hover => ?_⟩,
    fun s run sz _ => ⟨fun h bits r htake => ?_, fun hover => ?_, fun h hend => ?_⟩⟩
  · exact runProc_ok _ ((zrlRule_run s).trans (if_pos hfits))
  · exact runProc_refused _ ((zrlRule_run s).trans (if_neg (Nat.not_le.mpr hover)))
  · exact runProc_ok _ (acRunSizeRule_run h htake)
  · exact runProc_refused _ (acRunSizeRule_run_over sz hover)
  · obtain ⟨s', hrun⟩ := acRunSizeRule_run_end h hend
    exact runProc_raised _ hrun

theorem exec_fill (s : State) : exec .fill s = runUnit fillByte s := by rfl

theorem exec_stuff (s : State) : exec .stuff s = runUnit stuff s := by rfl

theorem exec_pad (n : Nat) (s : State) : exec (.pad n) s = runUnit (padding n) s := by rfl

/-- STUFF by whether its pair stands at the cursor (spec R91, log entry 10). -/
theorem stuff_run (s : State) :
    stuff.run s =
      if s.reader.holds [0xFF, 0x00] = true then
        .ok () { s with reader := { s.reader with racc := 0xFF, rp := s.reader.rp + 2, rcnt := 8 } }
      else .error (.refused (Config.unstatedReason .notAnEscape)) s := by
  rw [stuff, Proc.get_bind_run, require_bind_run]
  simp only [Reader.holds_pair_iff, Bool.and_eq_true, decide_eq_true_eq]
  rfl

/-- PAD while encoding completes the writer's byte, when its length is the one left (spec R100, R143). -/
theorem padding_run_busyEnc {s : State} (hphase : s.status.phase = .busyEnc) (n : Nat) :
    (padding n).run s =
      if 1 ≤ n ∧ n ≤ 7 ∧ s.writer.wcnt + n = 8 then .ok () { s with writer := s.writer.flush }
      else .error (.refused (Config.unstatedReason .padMismatch)) s := by
  rw [padding, Proc.get_bind_run, hphase]
  dsimp only
  rw [require_bind_run]
  simp only [Bool.and_eq_true, decide_eq_true_eq, and_assoc]
  rfl

/-- PAD otherwise empties the reader's byte, when its length is the one left (spec R100, R135). -/
theorem padding_run_of_ne {s : State} (hphase : s.status.phase ≠ .busyEnc) (n : Nat) :
    (padding n).run s =
      if 1 ≤ n ∧ n ≤ 7 ∧ s.reader.rcnt = n then .ok () { s with reader := { s.reader with rcnt := 0 } }
      else .error (.refused (Config.unstatedReason .padMismatch)) s := by
  have hreader : (padding n).run s =
      (require (1 ≤ n && n ≤ 7 && s.reader.rcnt = n) .padMismatch >>= fun _ => alignToByte).run s := by
    rw [padding, Proc.get_bind_run]
    split
    · exact absurd ‹_› hphase
    all_goals rfl
  rw [hreader, require_bind_run]
  simp only [Bool.and_eq_true, decide_eq_true_eq, and_assoc]
  rfl

/-- Settles O30: the branch of each rule that the bytes or bits at hand choose. -/
theorem escapesAndPaddingMoveTheCursor : Obligations.EscapesAndPaddingMoveTheCursor := by
  refine ⟨fun s h => ?_, fun s h => ?_, fun s n hlow hhigh hphase hcnt => ?_, fun s n hlow hhigh hphase hok hcnt => ?_⟩
  · have hbyte : s.reader.byte? s.reader.rp = some 0xFF := Reader.byte?_of_holds h (i := 0) (by simp)
    have hrun : fillByte.run s = .ok () { s with
        reader := { s.reader with rp := s.reader.rp + 1 }
        walk := { s.walk with fills := s.walk.fills + 1 } } := by
      rw [fillByte, Proc.get_bind_run]
      simp only [hbyte]
      rfl
    rw [exec_fill, runUnit_ok hrun]
  · rw [exec_stuff, runUnit_ok ((stuff_run s).trans (if_pos h))]
  · rw [exec_pad, runUnit_ok ((padding_run_of_ne hphase n).trans (if_pos ⟨hlow, hhigh, hcnt⟩))]
  · have hrun := flushWithPadding_run_flushed hok
    rw [flushWithPadding_run] at hrun
    rw [exec_pad, runUnit_ok (((padding_run_busyEnc hphase n).trans (if_pos ⟨hlow, hhigh, hcnt⟩)).trans hrun),
      State.flushed]

end Sys2Proof.Machine
end

section
/-! PROOFS of the situations a rule excludes and of the results it leaves open (spec R9, log entries 10, 22), and the payload
frame (spec R300). -/

namespace Sys2Proof

theorem bitsToNat_append (bits more : List Bool) :
    bitsToNat (bits ++ more) = 2 ^ more.length * bitsToNat bits + bitsToNat more := by
  induction more using List.reverseRecOn with
  | nil => simp
  | append_singleton more b ih =>
    rw [← List.append_assoc, bitsToNat_concat, bitsToNat_concat, ih, List.length_append, List.length_singleton,
      Nat.pow_succ']
    ring

/-- The four bytes of a big-endian number below `2^32` (spec R300). -/
theorem bitsToNat_natBytes32 {n : Nat} (h : n < 2 ^ 32) : bitsToNat (bytesToBits (natBytes32 n)) = n := by
  have hbits : bytesToBits (natBytes32 n) =
      natToBits (n / 2 ^ 24 % 2 ^ 8) 8 ++ (natToBits (n / 2 ^ 16 % 2 ^ 8) 8 ++
        (natToBits (n / 2 ^ 8 % 2 ^ 8) 8 ++ (natToBits (n % 2 ^ 8) 8 ++ []))) := by
    simp [natBytes32, bytesToBits, BitVec.toNat_ofNat]
  rw [hbits]
  simp only [bitsToNat_append, List.length_append, length_natToBits, bitsToNat_natToBits, bitsToNat_nil, List.length_nil]
  omega

theorem bytesToBits_append (data data' : List Byte) : bytesToBits (data ++ data') = bytesToBits data ++ bytesToBits data' :=
  List.flatMap_append

end Sys2Proof

namespace Sys2Proof.Machine

theorem exec_frame {payload : List Byte} (h : payload.length < 2 ^ 32) (s : State) :
    exec (.frame payload) s = .next (s.returning (.bytes (frameBytes payload))) := by
  show execFrame payload s = _
  rw [execFrame, if_pos h, runPure_eq]

theorem length_natBytes32 (n : Nat) : (natBytes32 n).length = 4 := rfl

/-- The bits of a framed payload: 32 of the length, then those of the payload (spec R300). -/
theorem bytesToBits_frameBytes (payload : List Byte) :
    bytesToBits (frameBytes payload) = bytesToBits (natBytes32 payload.length) ++ bytesToBits payload :=
  bytesToBits_append _ _

theorem length_bytesToBits_frameBytes (payload : List Byte) :
    (bytesToBits (frameBytes payload)).length = 8 * (payload.length + 4) := by
  rw [length_bytesToBits, frameBytes, List.length_append, length_natBytes32, Nat.add_comm 4]

/-- Settles O53: the bits of the four length bytes in front of those of the payload. -/
theorem frameCarriesItsLength : Obligations.FrameCarriesItsLength := by
  intro s payload hlen
  have hprefix : (bytesToBits (natBytes32 payload.length)).length = 32 := by
    rw [length_bytesToBits, length_natBytes32]
  refine ⟨exec_frame hlen s, length_bytesToBits_frameBytes payload, ?_, ?_⟩
  · rw [bytesToBits_frameBytes, List.take_left' hprefix, bitsToNat_natBytes32 hlen]
  · rw [bytesToBits_frameBytes, List.drop_left' hprefix]

/-- The procedure is refused in this state, with nothing changed. -/
def RefusesIn (s : State) (p : Proc Unit) : Prop := ∃ reason, p.run s = .error (.refused reason) s

namespace RefusesIn

variable {s : State} {p : Proc Unit}

theorem refuse (reason : Reason) : RefusesIn s (Machine.refuse reason) := ⟨reason, rfl⟩

theorem putRaw (h : s.writer.wcnt ≠ 0) (bytes : List Byte) : RefusesIn s (putRaw bytes) :=
  ⟨_, (putRaw_run bytes s).trans (if_neg h)⟩

theorem bind {q : Unit → Proc Unit} (h : RefusesIn s p) : RefusesIn s (p >>= q) := by
  obtain ⟨reason, hrun⟩ := h
  exact ⟨reason, Proc.bind_run_error hrun⟩

theorem require (h : RefusesIn s p) (ok : Bool) (e : Config.Excluded) : RefusesIn s (require ok e >>= fun _ => p) := by
  cases ok with
  | true => exact h
  | false => exact bind (.refuse _)

theorem forM {α : Type} {emit : α → Proc Unit} (h : ∀ a, RefusesIn s (emit a)) {as : List α} (hne : as ≠ []) :
    RefusesIn s (as.forM emit) := by
  cases as with
  | nil => exact absurd rfl hne
  | cons a as => exact (h a).bind

/-- A table emitter: refused with bits gathered, whether its table is there or not. -/
theorem valid_or_missing (h : s.writer.wcnt ≠ 0) (valid : Bool) (bytes : List Byte) :
    RefusesIn s (if valid then Machine.putRaw bytes else Machine.refuse .missingTable) := by
  cases valid with
  | true => exact putRaw h bytes
  | false => exact refuse _

theorem runUnit (h : RefusesIn s p) :
    ∃ t reason, runUnit p s = .next t ∧ t.refusedWith reason ∧ t.image = s.image := by
  obtain ⟨reason, hrun⟩ := h
  exact ⟨takeRefusal reason s, reason, runUnit_error hrun, ⟨rfl, rfl⟩, rfl⟩

theorem runUnit_reader (h : RefusesIn s p) :
    ∃ t reason, Machine.runUnit p s = .next t ∧ t.refusedWith reason ∧ t.reader = s.reader := by
  obtain ⟨reason, hrun⟩ := h
  exact ⟨takeRefusal reason s, reason, runUnit_error hrun, ⟨rfl, rfl⟩, rfl⟩

end RefusesIn

theorem emitDht_refusesIn {s : State} (h : s.writer.wcnt ≠ 0)
    (hused : usedHuff s.image .dc ≠ [] ∨ usedHuff s.image .ac ≠ []) : RefusesIn s emitDht := by
  have hone : ∀ tc t, RefusesIn s (emitOneDht tc t) := fun tc t => .valid_or_missing h _ _
  by_cases hdc : usedHuff s.image .dc = []
  · obtain ⟨reason, hrun⟩ := RefusesIn.forM (hone .ac) (hused.resolve_left (not_not.mpr hdc))
    refine ⟨reason, ?_⟩
    rw [emitDht, Proc.get_bind_run]
    dsimp only
    rw [hdc]
    exact hrun
  · exact (RefusesIn.forM (hone .dc) hdc).bind

/-- With bits gathered every emitter that has something to append is refused (spec R144, log entry 10). -/
theorem exec_emitter_refused {s : State} {i : Instr} (h : s.writer.wcnt ≠ 0)
    (hi : (∃ bytes, i = .putRaw bytes) ∨ i = .emitSoi ∨ i = .emitSof0 ∨ (i = .emitPreserved ∧ s.image.seg ≠ []) ∨
      (i = .emitDri ∧ s.image.ri ≠ 0) ∨ (i = .emitSos ∧ s.image.scans ≠ []) ∨
      (i = .emitDqt ∧ usedQuant s.image ≠ []) ∨
      (i = .emitDht ∧ (usedHuff s.image .dc ≠ [] ∨ usedHuff s.image .ac ≠ []))) :
    ∃ t reason, exec i s = .next t ∧ t.refusedWith reason ∧ t.image = s.image := by
  have hput := RefusesIn.putRaw h
  obtain ⟨bytes, rfl⟩ | rfl | rfl | ⟨rfl, hseg⟩ | ⟨rfl, hri⟩ | ⟨rfl, -⟩ | ⟨rfl, hused⟩ | ⟨rfl, hused⟩ := hi
  · exact (hput bytes).runUnit
  · exact (hput [0xFF, 0xD8]).runUnit
  · exact (hput (segmentBytes 0xC0 (sof0Payload s.image.frame))).runUnit
  · exact (RefusesIn.forM (fun r : SegRecord => hput (segmentBytes r.marker r.payload)) hseg).runUnit
  · have hpos : 0 < s.image.ri.toNat := Nat.pos_of_ne_zero fun h0 => hri (BitVec.eq_of_toNat_eq h0)
    have hdri : RefusesIn s emitDri := by
      obtain ⟨reason, hrun⟩ := hput (segmentBytes 0xDD (be16Bytes s.image.ri))
      refine ⟨reason, ?_⟩
      rw [emitDri, Proc.get_bind_run]
      dsimp only
      rw [if_pos hpos, hrun]
    exact hdri.runUnit
  · have hsos : RefusesIn s emitSos := hput (segmentBytes 0xDA (sosPayload s.image.frame s.image.scan0))
    exact (hsos.require _ _).runUnit
  · have hone : ∀ t, RefusesIn s (emitOneDqt t) := fun t => .valid_or_missing h _ _
    have hdqt : RefusesIn s emitDqt := RefusesIn.forM hone hused
    exact (hdqt.require _ _).runUnit
  · exact ((emitDht_refusesIn h hused).require _ _).runUnit

/-- Without a scan record the procedures that read one are refused (log entry 10). -/
theorem exec_refused_of_no_scan {s : State} {i : Instr} (h : s.image.scans = [])
    (hi : i ∈ [Instr.emitSos, .emitDqt, .emitDht, .encodeScan, .decodeScan]) :
    ∃ t reason, exec i s = .next t ∧ t.refusedWith reason ∧ t.image = s.image := by
  have hrequire : ∀ p : Proc Unit, RefusesIn s (do require (s.image.scans ≠ []) .noScanRecord; p) := fun p => by
    rw [h]
    exact RefusesIn.bind (.refuse _)
  simp only [List.mem_cons, List.not_mem_nil, or_false] at hi
  obtain rfl | rfl | rfl | rfl | rfl := hi
  · exact (hrequire _).runUnit
  · exact (hrequire _).runUnit
  · exact (hrequire _).runUnit
  · exact (hrequire _).runUnit
  · exact (hrequire _).runUnit

theorem padding_refusesIn {s : State} {n : Nat}
    (h : (s.status.phase = .busyEnc ∧ ¬ (1 ≤ n ∧ n ≤ 7 ∧ s.writer.wcnt + n = 8)) ∨
      (s.status.phase ≠ .busyEnc ∧ ¬ (1 ≤ n ∧ n ≤ 7 ∧ s.reader.rcnt = n))) : RefusesIn s (padding n) := by
  obtain ⟨hphase, hother⟩ | ⟨hphase, hother⟩ := h
  · exact ⟨_, (padding_run_busyEnc hphase n).trans (if_neg hother)⟩
  · exact ⟨_, (padding_run_of_ne hphase n).trans (if_neg hother)⟩

/-- `build_table` on another number of values (spec R161, log entry 22). -/
theorem exec_buildTable_of_some {counts : Vector Byte 16} {cs : List (Nat × Nat)} (h : buildTable counts = some cs)
    (values : List Byte) (s : State) : ∃ cs', exec (.buildTable counts values) s = .next (s.returning (.codes cs')) := by
  rw [exec_buildTable]
  exact ⟨_, runProc_ok _ (Proc.bind_run_ok (buildTableProc_run_some h s))⟩

theorem exec_buildTable_of_none {counts : Vector Byte 16} (h : buildTable counts = none) (values : List Byte) (s : State) :
    ∃ t, exec (.buildTable counts values) s = .next t ∧ t.refusedWith .huffmanOversubscribed := by
  rw [exec_buildTable]
  exact runProc_refused _ (Proc.bind_run_error (buildTableProc_run_none h s))

/-- `frame` of a payload whose length has no 32 bits (log entry 22). -/
theorem exec_frame_of_le {payload : List Byte} (h : 2 ^ 32 ≤ payload.length) (s : State) :
    ∃ b0 b1 b2 b3, exec (.frame payload) s = .next (s.returning (.bytes (b0 :: b1 :: b2 :: b3 :: payload))) := by
  have hfour : ∀ v : Vector Byte 4, v.toList = [v[0], v[1], v[2], v[3]] := fun v => by
    apply List.ext_getElem (by simp)
    intro i hi _
    have hi4 : i < 4 := by simpa using hi
    interval_cases i <;> simp
  refine ⟨(Config.lengthUnstated payload.length)[0], (Config.lengthUnstated payload.length)[1],
    (Config.lengthUnstated payload.length)[2], (Config.lengthUnstated payload.length)[3], ?_⟩
  show execFrame payload s = _
  rw [execFrame, if_neg (Nat.not_lt.mpr h), runPure_eq, hfour]
  rfl

/-- Settles O7: the refused procedures by their requirement, the free results by the value the model answers. -/
theorem operandsOutsideTheDomainAreRefusedOrFree : Obligations.OperandsOutsideTheDomainAreRefusedOrFree := by
  refine ⟨fun s p hp => ?_, fun s i h hi => exec_emitter_refused h hi, fun s h => ?_,
    fun s n h => (padding_refusesIn h).runUnit_reader, fun s i hi h => exec_refused_of_no_scan h hi,
    fun s counts values _ => ⟨fun hsome => ?_, fun hnone => exec_buildTable_of_none hnone values s⟩,
    fun s bits n _ => ⟨_, rfl⟩, fun s v n _ => ⟨_, rfl⟩, fun s a => ⟨_, rfl⟩, fun s d => ⟨_, rfl⟩,
    fun s payload h => exec_frame_of_le h s⟩
  · have hattach : RefusesIn s (do require (p ≤ s.reader.inlen) .attachOutsideBuffer; brAttach p) := by
      rw [decide_eq_false (Nat.not_le.mpr hp)]
      exact RefusesIn.bind (.refuse _)
    exact hattach.runUnit_reader
  · have hstuff : RefusesIn s stuff := ⟨_, (stuff_run s).trans (if_neg (by rw [h]; decide))⟩
    exact hstuff.runUnit_reader
  · obtain ⟨cs, hcs⟩ := Option.ne_none_iff_exists'.mp hsome
    exact exec_buildTable_of_some hcs values s

end Sys2Proof.Machine
end

section
/-! PROOFS of the frame: a relation between the states before and after, kept by every part of a procedure (spec R9). -/

namespace Sys2Proof.Machine

/-- What a procedure may do: a relation of the state it leaves to the state before, that composes, and the stops it may end
with. -/
structure Effect where
  rel : State → State → Prop
  stops : Stop → Prop
  refl : ∀ s, rel s s
  trans : ∀ {s t u}, rel s t → rel t u → rel s u

/-- However the procedure ends when it begins in `s`, it has done no more than the effect allows. -/
structure Proc.Moves {α : Type} (E : Effect) (p : Proc α) (s : State) : Prop where
  ok : ∀ a t, p.run s = .ok a t → E.rel s t
  error : ∀ e t, p.run s = .error e t → E.rel s t ∧ E.stops e

namespace Proc.Moves

variable {α β : Type} {E : Effect} {p : Proc α} {s : State}

theorem of_run_ok {a : α} {t : State} (h : p.run s = .ok a t) (hrel : E.rel s t) : p.Moves E s where
  ok b u hrun := by rw [h] at hrun; cases hrun; exact hrel
  error e u hrun := by rw [h] at hrun; cases hrun

theorem of_run_error {e : Stop} {t : State} (h : p.run s = .error e t) (hrel : E.rel s t) (hstop : E.stops e) :
    p.Moves E s where
  ok b u hrun := by rw [h] at hrun; cases hrun
  error e u hrun := by rw [h] at hrun; cases hrun; exact ⟨hrel, hstop⟩

theorem pure (a : α) : (pure a : Proc α).Moves E s := of_run_ok (Proc.pure_run a s) (E.refl s)

theorem raise {kind : ErrKind} {pos : Nat} (h : E.stops (.raised kind pos)) :
    (Machine.raise kind pos : Proc α).Moves E s := of_run_error (raise_run kind pos s) (E.refl s) h

theorem refuse {reason : Reason} (h : E.stops (.refused reason)) : (Machine.refuse reason : Proc α).Moves E s :=
  of_run_error (refuse_run reason s) (E.refl s) h

theorem bind {f : α → Proc β} (hp : p.Moves E s) (hf : ∀ a t, p.run s = .ok a t → E.rel s t → (f a).Moves E t) :
    (p >>= f).Moves E s where
  ok b u hrun := by
    obtain ⟨a, t, hrun1, hrun2⟩ := Proc.bind_eq_ok hrun
    have hrel := hp.ok a t hrun1
    exact E.trans hrel ((hf a t hrun1 hrel).ok b u hrun2)
  error e u hrun := by
    rw [Proc.bind_run] at hrun
    split at hrun
    · rename_i a t hrun1
      have hrel := hp.ok a t hrun1
      obtain ⟨hrel2, hstop⟩ := (hf a t hrun1 hrel).error e u hrun
      exact ⟨E.trans hrel hrel2, hstop⟩
    · rename_i e' t hrun1
      cases hrun
      exact hp.error _ _ hrun1

/-- Reading the state. -/
theorem get_bind {f : State → Proc β} (h : (f s).Moves E s) : (get >>= f : Proc β).Moves E s where
  ok b u hrun := h.ok b u hrun
  error e u hrun := h.error e u hrun

theorem ite {c : Prop} [Decidable c] {q : Proc α} (hp : c → p.Moves E s) (hq : ¬ c → q.Moves E s) :
    (if c then p else q).Moves E s := by
  split
  · exact hp ‹_›
  · exact hq ‹_›

end Proc.Moves

/-! What decoding keeps. -/

/-- The kinds of error the block raises (spec R29, R321), and every refusal. -/
def Stop.own : Stop → Prop
  | .raised kind _ => kind ≠ .none ∧ kind.code ≤ 9
  | .refused _ => True

/-- The sequencing flags of a decode past SOI: EOI only after a scan, a scan only after a frame (spec R28). -/
structure Image.Sequenced (im : Image) : Prop where
  soi : im.fSoi = true
  eoi : im.fEoi = true → im.scans ≠ []
  scans : im.scans ≠ [] → im.frame.valid = true

/-- What every procedure of the decoder keeps: the input, the legal ranges, the canonical plane, the legality of the image,
and everything that is not the decoder's to write. -/
structure Kept (s t : State) : Prop where
  inp : t.reader.inp = s.reader.inp
  rp_le : s.reader.rp ≤ t.reader.rp
  rp_in : s.reader.rp ≤ s.reader.inlen → t.reader.rp ≤ t.reader.inlen
  rcnt : s.reader.rcnt ≤ 8 → t.reader.rcnt ≤ 8
  writer : s.writer.ok = true → t.writer.ok = true
  work : s.work.ok = true → t.work.ok = true
  plane : s.image.plane.wf = true → t.image.plane.wf = true
  image : s.image.ok = true → t.image.ok = true
  sequenced : s.image.Sequenced → t.image.Sequenced
  status : t.status = s.status
  agent : t.agent = s.agent
  requests : t.port.requests = s.port.requests
  result : t.port.result = s.port.result

namespace Kept

theorem refl (s : State) : Kept s s :=
  ⟨rfl, le_rfl, id, id, id, id, id, id, id, rfl, rfl, rfl, rfl⟩

theorem trans {s t u : State} (h : Kept s t) (h' : Kept t u) : Kept s u where
  inp := h'.inp.trans h.inp
  rp_le := h.rp_le.trans h'.rp_le
  rp_in := h'.rp_in ∘ h.rp_in
  rcnt := h'.rcnt ∘ h.rcnt
  writer := h'.writer ∘ h.writer
  work := h'.work ∘ h.work
  plane := h'.plane ∘ h.plane
  image := h'.image ∘ h.image
  sequenced := h'.sequenced ∘ h.sequenced
  status := h'.status.trans h.status
  agent := h'.agent.trans h.agent
  requests := h'.requests.trans h.requests
  result := h'.result.trans h.result

variable (s : State)

theorem of_reader {r : Reader} (hinp : r.inp = s.reader.inp) (hle : s.reader.rp ≤ r.rp)
    (hin : s.reader.rp ≤ s.reader.inlen → r.rp ≤ s.reader.inlen) (hcnt : s.reader.rcnt ≤ 8 → r.rcnt ≤ 8) :
    Kept s { s with reader := r } :=
  { refl s with
    inp := hinp, rp_le := hle, rp_in := fun h => by simpa [Reader.inlen, hinp] using hin h, rcnt := hcnt }

theorem of_writer {w : Writer} (h : s.writer.ok = true → w.ok = true) : Kept s { s with writer := w } :=
  { refl s with writer := h }

theorem of_work {w : Work} (h : s.work.ok = true → w.ok = true) : Kept s { s with work := w } :=
  { refl s with work := h }

theorem of_walk (w : Sequencer) : Kept s { s with walk := w } :=
  { refl s with }

theorem of_cancel (cancel : List Bool) : Kept s { s with port := { s.port with cancel := cancel } } :=
  { refl s with }

theorem of_image {im : Image} (hplane : s.image.plane.wf = true → im.plane.wf = true)
    (hok : s.image.ok = true → im.ok = true) (hseq : s.image.Sequenced → im.Sequenced) :
    Kept s { s with image := im } :=
  { refl s with plane := hplane, image := hok, sequenced := hseq }

end Kept

/-- The effect of the decoder's procedures. -/
def decoding : Effect where
  rel := Kept
  stops := Stop.own
  refl := Kept.refl
  trans := Kept.trans

/-- What the procedures of a scan below its blocks keep: all that decoding keeps, and the image as it is; and they do not
sample `CANCEL`. -/
structure Scanned (s t : State) : Prop extends Kept s t where
  same_image : t.image = s.image
  same_cancel : t.port.cancel = s.port.cancel

namespace Scanned

theorem refl (s : State) : Scanned s s := ⟨Kept.refl s, rfl, rfl⟩

theorem trans {s t u : State} (h : Scanned s t) (h' : Scanned t u) : Scanned s u :=
  ⟨h.toKept.trans h'.toKept, h'.same_image.trans h.same_image, h'.same_cancel.trans h.same_cancel⟩

variable (s : State)

theorem of_reader {r : Reader} (hinp : r.inp = s.reader.inp) (hle : s.reader.rp ≤ r.rp)
    (hin : s.reader.rp ≤ s.reader.inlen → r.rp ≤ s.reader.inlen) (hcnt : s.reader.rcnt ≤ 8 → r.rcnt ≤ 8) :
    Scanned s { s with reader := r } := ⟨Kept.of_reader s hinp hle hin hcnt, rfl, rfl⟩

theorem of_work {w : Work} (h : s.work.ok = true → w.ok = true) : Scanned s { s with work := w } :=
  ⟨Kept.of_work s h, rfl, rfl⟩

theorem of_walk (w : Sequencer) : Scanned s { s with walk := w } := ⟨Kept.of_walk s w, rfl, rfl⟩

end Scanned

/-- The effect of the procedures of a scan below its blocks. -/
def scanning : Effect where
  rel := Scanned
  stops := Stop.own
  refl := Scanned.refl
  trans := Scanned.trans

theorem Proc.Moves.weaken {α : Type} {p : Proc α} {s : State} (h : p.Moves scanning s) : p.Moves decoding s where
  ok a t hrun := (h.ok a t hrun).toKept
  error e t hrun := ⟨(h.error e t hrun).1.toKept, (h.error e t hrun).2⟩

theorem own_raised {kind : ErrKind} (pos : Nat) (h : kind ≠ .none ∧ kind.code ≤ 9 := by decide) :
    (Stop.raised kind pos).own := h

theorem scanning_raise {α : Type} (kind : ErrKind) (pos : Nat) (s : State)
    (h : kind ≠ .none ∧ kind.code ≤ 9 := by decide) : (raise kind pos : Proc α).Moves scanning s := .raise h

theorem scanning_refuse {α : Type} (reason : Reason) (s : State) : (refuse reason : Proc α).Moves scanning s :=
  .refuse trivial

theorem decoding_raise {α : Type} (kind : ErrKind) (pos : Nat) (s : State)
    (h : kind ≠ .none ∧ kind.code ≤ 9 := by decide) : (raise kind pos : Proc α).Moves decoding s := .raise h

theorem decoding_refuse {α : Type} (reason : Reason) (s : State) : (refuse reason : Proc α).Moves decoding s :=
  .refuse trivial

/-! The parts of a legal image. -/

/-- The conjuncts of `Image.ok`, by name. -/
structure Image.Legal (im : Image) : Prop where
  frame : im.frame.ok = true
  scans : ∀ sc ∈ im.scans, sc.ok im.frame = true
  framed : im.scans ≠ [] → im.frame.valid = true
  qt : ∀ t : Slot, im.qt[t].ok = true
  ht : ∀ (tc : TableClass) (th : Slot), (im.ht tc th).ok = true
  seg : ∀ r ∈ im.seg, r.ok = true

theorem forall_mem_toList_iff {α : Type} {n : Nat} (v : Vector α n) (P : α → Prop) :
    (∀ x ∈ v.toList, P x) ↔ ∀ i : Fin n, P v[i] := by
  constructor
  · exact fun h i => h _ (Vector.mem_toList_iff.mpr (Vector.getElem_mem i.isLt))
  · intro h x hx
    obtain ⟨i, hi, rfl⟩ := Vector.mem_iff_getElem.mp (Vector.mem_toList_iff.mp hx)
    exact h ⟨i, hi⟩

theorem Image.ok_iff_legal (im : Image) : im.ok = true ↔ im.Legal := by
  have hframed : (im.scans.isEmpty || im.frame.valid) = true ↔ (im.scans ≠ [] → im.frame.valid = true) := by
    cases im.scans <;> simp
  simp only [Image.ok, Bool.and_eq_true, hframed, List.all_eq_true, forall_mem_toList_iff]
  constructor
  · rintro ⟨⟨⟨⟨⟨⟨hframe, hscans⟩, hframed⟩, hqt⟩, hdc⟩, hac⟩, hseg⟩
    exact ⟨hframe, hscans, hframed, hqt, fun tc th => match tc with | .dc => hdc th | .ac => hac th, hseg⟩
  · intro h
    exact ⟨⟨⟨⟨⟨⟨h.frame, h.scans⟩, h.framed⟩, h.qt⟩, h.ht .dc⟩, h.ht .ac⟩, h.seg⟩

theorem Image.Legal.setQt {im : Image} (h : im.Legal) (t : Slot) {slot : QuantSlot} (hslot : slot.ok = true) :
    (im.setQt t slot).Legal where
  frame := h.frame
  scans := h.scans
  framed := h.framed
  qt t' := by
    by_cases heq : t = t'
    · subst heq
      rwa [Image.qt_setQt_same]
    · rw [Image.qt_setQt_other _ _ _ _ heq]
      exact h.qt t'
  ht tc th := by cases tc with | dc => exact h.ht .dc th | ac => exact h.ht .ac th
  seg := h.seg

theorem Image.Legal.setHt {im : Image} (h : im.Legal) (tc : TableClass) (th : Slot) {slot : HuffSlot}
    (hslot : slot.ok = true) : (im.setHt tc th slot).Legal where
  frame := by rw [Image.setHt_frame]; exact h.frame
  scans := by rw [Image.setHt_frame, Image.setHt_scans]; exact h.scans
  framed := by rw [Image.setHt_frame, Image.setHt_scans]; exact h.framed
  qt t := by rw [Image.setHt_qt]; exact h.qt t
  ht tc' th' := by
    by_cases heq : tc = tc' ∧ th = th'
    · obtain ⟨rfl, rfl⟩ := heq
      rwa [Image.ht_setHt_same]
    · rw [Image.ht_setHt_other _ _ _ _ _ _ heq]
      exact h.ht tc' th'
  seg := by rw [Image.setHt_seg]; exact h.seg

/-! The reader. -/

theorem Reader.byte?_lt {r : Reader} {p : Nat} {b : Byte} (h : r.byte? p = some b) : p < r.inlen :=
  (List.getElem?_eq_some_iff.mp h).1

theorem Reader.fetched_cases {r r' : Reader} (h : r.fetched = some r') :
    r'.inp = r.inp ∧ r.rp ≤ r'.rp ∧ r'.rp ≤ r.inlen ∧ r'.rcnt = 8 := by
  unfold Reader.fetched at h
  split at h
  · cases h
  · rename_i hb
    split_ifs at h with hdata hstuffed
    · cases h
      exact ⟨rfl, Nat.le_succ _, Reader.byte?_lt hb, rfl⟩
    · cases h
      have := Reader.byte?_lt hstuffed
      exact ⟨rfl, Nat.le_add_right _ _, by simp only; omega, rfl⟩

theorem Reader.nextBit_cases {r r' : Reader} {b : Bool} (h : r.nextBit = some (b, r')) :
    r'.inp = r.inp ∧ r.rp ≤ r'.rp ∧ (r.rp ≤ r.inlen → r'.rp ≤ r.inlen) ∧ (r.rcnt ≤ 8 → r'.rcnt < 8) ∧
      (0 < r.rcnt → r'.rp = r.rp ∧ r'.rcnt = r.rcnt - 1) := by
  obtain ⟨r1, hr1, heq⟩ := Option.map_eq_some_iff.mp h
  obtain ⟨-, rfl⟩ := Prod.mk.inj heq
  split_ifs at hr1 with hzero
  · obtain ⟨hinp, hle, hin, hcnt⟩ := Reader.fetched_cases hr1
    exact ⟨hinp, hle, fun _ => hin, fun _ => by simp only; omega, fun hpos => absurd hzero hpos.ne'⟩
  · cases hr1
    exact ⟨rfl, le_rfl, id, fun _ => by simp only; omega, fun _ => ⟨rfl, rfl⟩⟩

theorem fetchByte_moves (s : State) : fetchByte.Moves scanning s := by
  have hrun := fetchByte_run s
  cases h : s.reader.fetched with
  | none =>
    rw [h] at hrun
    exact .of_run_error hrun (Scanned.refl s) (own_raised s.reader.rp)
  | some r =>
    rw [h] at hrun
    obtain ⟨hinp, hle, hin, hcnt⟩ := Reader.fetched_cases h
    exact .of_run_ok hrun (Scanned.of_reader s hinp hle (fun _ => hin) fun _ => hcnt.le)

theorem readBit_moves (s : State) : readBit.Moves scanning s := by
  have hrun := readBit_run s
  cases h : s.reader.nextBit with
  | none =>
    rw [h] at hrun
    exact .of_run_error hrun (Scanned.refl s) (own_raised s.reader.rp)
  | some p =>
    obtain ⟨b, r⟩ := p
    rw [h] at hrun
    obtain ⟨hinp, hle, hin, hcnt, -⟩ := Reader.nextBit_cases h
    exact .of_run_ok hrun (Scanned.of_reader s hinp hle hin fun h8 => (hcnt h8).le)

theorem readBitsFrom_moves (n : Nat) : ∀ (v : Nat) (s : State), (readBitsFrom v n).Moves scanning s := by
  induction n with
  | zero => exact fun v s => .pure v
  | succ n ih => exact fun v s => .bind (readBit_moves s) fun b t _ _ => ih _ t

theorem readBits_moves (n : Nat) (s : State) : (readBits n).Moves scanning s :=
  .ite (fun _ => scanning_refuse _ s) fun _ => readBitsFrom_moves n 0 s

theorem alignToByte_moves (s : State) : alignToByte.Moves scanning s :=
  .of_run_ok (alignToByte_run s) (Scanned.of_reader s rfl le_rfl id fun _ => Nat.zero_le 8)

theorem readMarker_moves (s : State) : readMarker.Moves scanning s := by
  refine .get_bind ?_
  dsimp only
  split
  · exact scanning_raise _ _ s
  · refine .ite (fun _ => scanning_raise _ _ s) fun _ => ?_
    split
    · exact scanning_raise _ _ s
    · rename_i m hm
      refine .ite (fun _ => scanning_raise _ _ s) fun _ => .bind (.of_run_ok (modifyReader_run _ s) ?_) fun _ t _ _ => .pure m
      have hskip : s.reader.rp + 1 ≤ s.reader.skipFill (s.reader.rp + 1) := Nat.le_add_right _ _
      exact Scanned.of_reader s rfl (by simp only; omega) (fun _ => Reader.byte?_lt hm) fun _ => Nat.zero_le 8

end Sys2Proof.Machine
end

section
/-! PROOFS of the frame: the segments and their contents (spec R183 to R195). -/

namespace Sys2Proof.Machine

theorem be16_length_le (b0 b1 : Byte) : (be16 b0 b1).toNat - 2 ≤ 65533 := by
  have := (be16 b0 b1).isLt
  omega

/-- What `read_segment` answers fits a 16-bit length; it moves the reader and records `lpos` (spec R183). -/
theorem readSegment_moves (s : State) : readSegment.Moves scanning s := by
  cases h1 : s.reader.byte? (s.reader.rp + 1) with
  | none => exact .of_run_error (readSegment_run_short s h1) (Scanned.of_walk s _) (own_raised s.reader.rp)
  | some b1 =>
    have hlt : s.reader.rp + 1 < s.reader.inp.length := Reader.byte?_lt h1
    obtain ⟨b0, h0⟩ : ∃ b0, s.reader.byte? s.reader.rp = some b0 :=
      ⟨_, List.getElem?_eq_getElem (Nat.lt_of_succ_lt hlt)⟩
    have hrun := readSegment_run s b0 b1 h0 h1
    dsimp only at hrun
    split_ifs at hrun with hshort hend
    · exact .of_run_error hrun (Scanned.of_walk s _) (own_raised s.reader.rp)
    · exact .of_run_error hrun (Scanned.of_walk s _) (own_raised s.reader.rp)
    · exact .of_run_ok hrun (Scanned.trans (Scanned.of_walk s { s.walk with lpos := s.reader.rp })
        (Scanned.of_reader _ (r := { s.reader with rp := s.reader.rp + (be16 b0 b1).toNat }) rfl (Nat.le_add_right _ _)
          (fun _ => Nat.not_lt.mp hend) id))

theorem readSegment_ok {s t : State} {payload : List Byte} (h : readSegment.run s = .ok payload t) :
    payload.length ≤ 65533 ∧ t.image = s.image ∧ t.work = s.work ∧ t.port = s.port ∧ t.writer = s.writer := by
  cases h1 : s.reader.byte? (s.reader.rp + 1) with
  | none => rw [readSegment_run_short s h1] at h; cases h
  | some b1 =>
    have hlt : s.reader.rp + 1 < s.reader.inp.length := Reader.byte?_lt h1
    obtain ⟨b0, h0⟩ : ∃ b0, s.reader.byte? s.reader.rp = some b0 :=
      ⟨_, List.getElem?_eq_getElem (Nat.lt_of_succ_lt hlt)⟩
    rw [readSegment_run s b0 b1 h0 h1] at h
    dsimp only at h
    split_ifs at h
    cases h
    refine ⟨?_, rfl, rfl, rfl, rfl⟩
    rw [List.length_take]
    exact (min_le_left _ _).trans (be16_length_le b0 b1)

theorem badLength_moves {α : Type} (s : State) : (badLength : Proc α).Moves scanning s :=
  .of_run_error (badLength_run s) (Scanned.refl s) (own_raised s.walk.lpos)

theorem misplacedMarker_moves {α : Type} (s : State) : (misplacedMarker : Proc α).Moves scanning s :=
  .of_run_error (misplacedMarker_run s) (Scanned.refl s) (own_raised s.walk.mpos)

theorem unsupportedMode_moves (s : State) : unsupportedMode.Moves scanning s :=
  .of_run_error (unsupportedMode_run s) (Scanned.refl s) (own_raised s.walk.mpos)

/-- A change of the image that keeps what a decode relies on. -/
theorem modifyImage_moves {f : Image → Image} {s : State} (hplane : (f s.image).plane = s.image.plane)
    (hlegal : s.image.Legal → (f s.image).Legal) (hseq : s.image.Sequenced → (f s.image).Sequenced) :
    (modifyImage f).Moves decoding s :=
  .of_run_ok (modifyImage_run f s) (Kept.of_image s (fun h => by rwa [hplane])
    (fun h => (Image.ok_iff_legal _).mpr (hlegal ((Image.ok_iff_legal _).mp h))) hseq)

theorem capture_moves {m : Byte} (hm : capturedMarker m = true) (s : State) : (capture m).Moves decoding s := by
  refine .bind (readSegment_moves s).weaken fun payload t hrun _ =>
    modifyImage_moves rfl (fun h => ?_) fun h => ⟨h.soi, h.eoi, h.scans⟩
  obtain ⟨hlen, -⟩ := readSegment_ok hrun
  refine { h with seg := fun r hr => ?_ }
  rcases List.mem_append.mp hr with hr | hr
  · exact h.seg r hr
  · obtain rfl := List.mem_singleton.mp hr
    simp [SegRecord.ok, hm, hlen]

/-- The slot a DQT table is stored as is legal (spec R33, R187). -/
theorem quantSlot_ok {pq : BitVec 4} (h : ¬ 1 < pq.toNat) (bytes : List Byte) :
    QuantSlot.ok { valid := true, pq := pq.truncate 1, q := quantEntries pq bytes } = true := by
  by_cases hpq : pq = 0
  · subst hpq
    have hentry : ∀ e ∈ (quantEntries 0 bytes).toList, e.toNat < 256 := by
      rw [forall_mem_toList_iff]
      intro i
      have hb := (bytes.getD i.val 0).isLt
      simpa [quantEntries, BitVec.toNat_setWidth] using Nat.lt_of_le_of_lt (Nat.mod_le _ _) hb
    simp only [QuantSlot.ok, Bool.or_eq_true, List.all_eq_true, decide_eq_true_eq]
    exact .inr hentry
  · have hone : pq = 1 := by
      apply BitVec.eq_of_toNat_eq
      have hne : pq.toNat ≠ 0 := fun h0 => hpq (BitVec.eq_of_toNat_eq h0)
      show pq.toNat = 1
      omega
    subst hone
    rfl

theorem dqtTables_moves (n : Nat) : ∀ (bytes : List Byte) (s : State), (dqtTables n bytes).Moves decoding s := by
  induction n with
  | zero =>
    intro bytes s
    cases bytes <;> exact .pure ()
  | succ n ih =>
    intro bytes s
    cases bytes with
    | nil => exact .pure ()
    | cons b rest =>
      refine .ite (fun _ => .get_bind (decoding_raise _ _ s)) fun hpq => ?_
      dsimp only
      split
      · exact decoding_refuse _ s
      · refine .ite (fun _ => (badLength_moves s).weaken) fun _ => .bind (modifyImage_moves rfl (fun h => ?_) fun h => ?_)
          fun _ t _ _ => ih _ t
        · exact h.setQt _ (quantSlot_ok hpq rest)
        · exact ⟨h.soi, h.eoi, h.scans⟩

theorem dqtRule_moves (s : State) : dqtRule.Moves decoding s :=
  .bind (readSegment_moves s).weaken fun pl t _ _ => .ite (fun _ => (badLength_moves t).weaken) fun _ => dqtTables_moves _ pl t

theorem buildTableProc_moves (counts : Vector Byte 16) (s : State) : (buildTableProc counts).Moves scanning s := by
  cases h : buildTable counts with
  | none => exact .of_run_error (buildTableProc_run_none h s) (Scanned.refl s) trivial
  | some cs => exact .of_run_ok (buildTableProc_run_some h s) (Scanned.refl s)

theorem buildTableProc_ok {counts : Vector Byte 16} {s t : State} {cs : List (Nat × Nat)}
    (h : (buildTableProc counts).run s = .ok cs t) : buildTable counts = some cs := by
  cases hb : buildTable counts with
  | none => rw [buildTableProc_run_none hb] at h; cases h
  | some cs' => rw [buildTableProc_run_some hb] at h; cases h; rfl

theorem dhtTables_moves (n : Nat) : ∀ (bytes : List Byte) (s : State), (dhtTables n bytes).Moves decoding s := by
  induction n with
  | zero =>
    intro bytes s
    cases bytes <;> exact .pure ()
  | succ n ih =>
    intro bytes s
    cases bytes with
    | nil => exact .pure ()
    | cons b rest =>
      rw [dhtTables]
      split
      · exact decoding_refuse _ s
      · split
        · exact decoding_refuse _ s
        · refine .ite (fun _ => (badLength_moves s).weaken) fun hcounts =>
            .ite (fun _ => (badLength_moves s).weaken) fun hvalues => ?_
          refine .bind (buildTableProc_moves _ s).weaken fun cs t hrun _ => .bind (modifyImage_moves (by simp) (fun h => ?_)
            fun h => ?_) fun _ u _ _ => ih _ u
          · refine h.setHt _ _ ?_
            rw [HuffSlot.ok, buildTableProc_ok hrun]
            simp only [Bool.not_true, Bool.false_or, Option.isSome_some, Bool.and_true, beq_iff_eq, List.length_take,
              List.length_drop]
            omega
          · exact ⟨by simpa using h.soi, by simpa using h.eoi, by simpa using h.scans⟩

theorem dhtRule_moves (s : State) : dhtRule.Moves decoding s :=
  .bind (readSegment_moves s).weaken fun pl t _ _ => .ite (fun _ => (badLength_moves t).weaken) fun _ => dhtTables_moves _ pl t

theorem driRule_moves (s : State) : driRule.Moves decoding s := by
  refine .bind (readSegment_moves s).weaken fun pl t _ _ => ?_
  split
  · exact modifyImage_moves rfl (fun h => { h with }) fun h => ⟨h.soi, h.eoi, h.scans⟩
  · exact (badLength_moves t).weaken

/-! SOF0. -/

/-- The conjuncts of `Frame.ok` of a valid frame, by name (spec R31). -/
structure Frame.Legal (f : Frame) : Prop where
  precision : f.p = 8
  y : f.y ≠ 0
  x : f.x ≠ 0
  nf_pos : 1 ≤ f.nf
  nf_le : f.nf ≤ 4
  comps : ∀ c ∈ f.comps, c.ok = true
  nodup : (f.comps.map Comp.c).Nodup

theorem Frame.ok_iff_legal {f : Frame} (hvalid : f.valid = true) : f.ok = true ↔ f.Legal := by
  simp only [Frame.ok, hvalid, Bool.not_true, Bool.false_or, Bool.and_eq_true, beq_iff_eq, bne_iff_ne, ne_eq,
    decide_eq_true_eq, List.all_eq_true]
  constructor
  · rintro ⟨⟨⟨⟨⟨⟨hp, hy⟩, hx⟩, hpos⟩, hle⟩, hcomps⟩, hnodup⟩
    exact ⟨hp, hy, hx, hpos, hle, hcomps, hnodup⟩
  · intro h
    exact ⟨⟨⟨⟨⟨⟨h.precision, h.y⟩, h.x⟩, h.nf_pos⟩, h.nf_le⟩, h.comps⟩, h.nodup⟩

/-- Components that SOF0 has accepted (spec R189). -/
structure AcceptedComps (comps : List Comp) : Prop where
  ok : ∀ c ∈ comps, c.ok = true
  nodup : (comps.map Comp.c).Nodup

theorem AcceptedComps.concat {comps : List Comp} (h : AcceptedComps comps) {d : Comp} (hd : d.ok = true)
    (hnew : ¬ (comps.any fun e => e.c == d.c) = true) : AcceptedComps (comps ++ [d]) where
  ok c hc := by
    rcases List.mem_append.mp hc with hc | hc
    · exact h.ok c hc
    · rwa [List.mem_singleton.mp hc]
  nodup := by
    rw [List.map_append, List.map_singleton, List.nodup_append]
    refine ⟨h.nodup, List.nodup_singleton _, fun a ha b hb hab => hnew ?_⟩
    obtain ⟨e, he, rfl⟩ := List.mem_map.mp ha
    rw [List.mem_singleton.mp hb] at hab
    exact List.any_eq_true.mpr ⟨e, he, by simpa using hab⟩

theorem sofComps_moves : ∀ (bytes : List Byte) (acc : List Comp) (s : State), (sofComps bytes acc).Moves scanning s
  | [], acc, s => .pure acc
  | [_], acc, s => .pure acc
  | [_, _], acc, s => .pure acc
  | c :: hv :: tqByte :: rest, acc, s => by
    rw [sofComps]
    refine .ite (fun _ => scanning_refuse _ s) fun _ => ?_
    split
    · exact scanning_refuse _ s
    · exact .ite (fun _ => scanning_refuse _ s) fun _ => sofComps_moves rest _ s

/-- The components SOF0 answers are accepted, as many as the bytes hold (spec R189). -/
theorem sofComps_ok : ∀ (bytes : List Byte) (acc comps : List Comp) (s t : State),
    (sofComps bytes acc).run s = .ok comps t → AcceptedComps acc →
    t = s ∧ AcceptedComps comps ∧ comps.length = acc.length + bytes.length / 3
  | [], acc, comps, s, t, hrun, hacc => by cases hrun; exact ⟨rfl, hacc, rfl⟩
  | [_], acc, comps, s, t, hrun, hacc => by cases hrun; exact ⟨rfl, hacc, by simp⟩
  | [_, _], acc, comps, s, t, hrun, hacc => by cases hrun; exact ⟨rfl, hacc, by simp⟩
  | c :: hv :: tqByte :: rest, acc, comps, s, t, hrun, hacc => by
    rw [sofComps] at hrun
    split at hrun
    · cases hrun
    · rename_i hfactors
      split at hrun
      · cases hrun
      · rename_i tq _
        split at hrun
        · cases hrun
        · rename_i hnew
          have hd : Comp.ok { c, h := hiNibble hv, v := loNibble hv, tq } = true := by
            simp only [Bool.or_eq_true, decide_eq_true_eq] at hfactors
            simp only [Comp.ok, Bool.and_eq_true, decide_eq_true_eq]
            omega
          obtain ⟨rfl, haccepted, hlen⟩ := sofComps_ok rest _ comps s t hrun (hacc.concat hd hnew)
          refine ⟨rfl, haccepted, ?_⟩
          rw [hlen, List.length_append, List.length_singleton]
          simp only [List.length_cons]
          omega

/-- SOF0 on a payload of the right size with the right precision (spec R189). -/
theorem acceptFrame_moves {s : State} {f : Frame} (hframe : s.image.frame.valid = false)
    (hf : ({ f with valid := true } : Frame).Legal) : (acceptFrame f).Moves decoding s := by
  have hscans : s.image.Legal → s.image.scans = [] := fun h => by
    by_contra hne
    rw [h.framed hne] at hframe
    cases hframe
  refine .of_run_ok (modifyImage_run _ s) (Kept.of_image s (fun _ => rfl) (fun hok => ?_) fun h => ⟨h.soi, h.eoi, fun _ => rfl⟩)
  have h := (Image.ok_iff_legal _).mp hok
  refine (Image.ok_iff_legal _).mpr ⟨(Frame.ok_iff_legal rfl).mpr hf, fun sc hsc => ?_, fun _ => rfl, h.qt, ?_, h.seg⟩
  · have hmem : sc ∈ s.image.scans := hsc
    rw [hscans h] at hmem
    cases hmem
  · intro tc th
    cases tc with
    | dc => exact h.ht .dc th
    | ac => exact h.ht .ac th

theorem sof0Rule_moves (s : State) : sof0Rule.Moves decoding s := by
  refine .bind (readSegment_moves s).weaken fun pl t _ _ =>
    .get_bind (.ite (fun _ => (misplacedMarker_moves t).weaken) fun hframe => ?_)
  split
  · rename_i p y1 y0 x1 x0 nf compBytes _
    refine .ite (fun _ => (badLength_moves t).weaken) fun hlen => .ite (fun _ => .get_bind (decoding_raise _ _ t)) fun hp =>
      .ite (fun _ => decoding_refuse _ t) fun hparams => .bind (sofComps_moves _ _ t).weaken fun comps u hrun _ => ?_
    obtain ⟨rfl, haccepted, hcount⟩ := sofComps_ok _ _ _ _ _ hrun ⟨nofun, List.nodup_nil⟩
    simp only [Bool.or_eq_true, decide_eq_true_eq, not_or] at hparams
    obtain ⟨⟨⟨hpos, hle⟩, hx⟩, hy⟩ := hparams
    rw [Config.maxComponents] at hle
    rw [not_not] at hlen hp
    rw [List.length_nil, Nat.zero_add, hlen] at hcount
    refine acceptFrame_moves (Bool.eq_false_of_not_eq_true hframe) ⟨hp, hy, hx, ?_, ?_, haccepted.ok,
      haccepted.nodup⟩
    · show 1 ≤ comps.length
      omega
    · show comps.length ≤ 4
      omega
  · exact (badLength_moves t).weaken

end Sys2Proof.Machine
end

section
/-! PROOFS of the frame: Huffman symbols, data units, scans and the walk (spec R163, R182, R193, R197 to R204). -/

namespace Sys2Proof.Machine

theorem slotCodes_moves (slot : HuffSlot) (s : State) : (slotCodes slot).Moves scanning s :=
  .ite (fun _ => .bind (buildTableProc_moves _ s) fun _ _ _ _ => .pure _) fun _ => .pure _

theorem huffDecodeFrom_moves (table : CodeTable) (n : Nat) :
    ∀ (len c : Nat) (s : State), (huffDecodeFrom table len c n).Moves scanning s := by
  induction n with
  | zero => exact fun len c s => .get_bind (scanning_raise _ _ s)
  | succ n ih =>
    refine fun len c s => .bind (readBit_moves s) fun b t _ _ => ?_
    dsimp only
    split
    · exact .pure _
    · exact ih _ _ t

theorem huffDecode_moves (tc : TableClass) (th : Slot) (s : State) : (huffDecode tc th).Moves scanning s :=
  .get_bind (.bind (slotCodes_moves _ s) fun _ t _ _ => huffDecodeFrom_moves _ _ _ _ t)

/-- A change of the working registers that leaves `k` in its range. -/
theorem modifyWork_moves {f : Work → Work} {s : State} (h : s.work.ok = true → (f s.work).ok = true) :
    (modifyWork f).Moves scanning s := .of_run_ok (modifyWork_run f s) (Scanned.of_work s h)

theorem dcSizeRule_moves (ci : Slot) (n : Fin 12) (s : State) : (dcSizeRule ci n).Moves scanning s :=
  .bind (readBits_moves n.val s) fun _ _ _ _ => modifyWork_moves id

theorem decodeDc_moves (ci td : Slot) (s : State) : (decodeDc ci td).Moves scanning s := by
  refine .bind (huffDecode_moves .dc td s) fun sym t _ _ => ?_
  split
  · exact dcSizeRule_moves ci _ t
  · exact scanning_refuse _ t

theorem Work.ok_iff (w : Work) : w.ok = true ↔ 1 ≤ w.k ∧ w.k ≤ 64 := by simp [Work.ok]

theorem zrlRule_moves (s : State) : zrlRule.Moves scanning s := by
  refine .get_bind (.ite (fun _ => scanning_refuse _ s) fun hfits =>
    .bind (modifyWork_moves fun h => ?_) fun _ t _ _ => .pure _)
  rw [Work.ok_iff] at h ⊢
  dsimp only at hfits ⊢
  omega

theorem acRunSizeRule_moves (run sz : BitVec 4) (s : State) : (acRunSizeRule run sz).Moves scanning s := by
  refine .get_bind (.ite (fun _ => scanning_refuse _ s) fun hfits => .bind (modifyWork_moves fun h => ?_) fun _ t _ _ =>
    .bind (readBits_moves sz.toNat t) fun _ u _ _ => .bind (modifyWork_moves fun h => ?_) fun _ _ _ _ => .pure _)
  · rw [Work.ok_iff] at h ⊢
    dsimp only
    omega
  · rw [Work.ok_iff]
    dsimp only
    omega

theorem decodeAc_moves (ta : Slot) (s : State) : (decodeAc ta).Moves scanning s :=
  .bind (huffDecode_moves .ac ta s) fun _ t _ _ => .ite (fun _ => .pure true) fun _ =>
    .ite (fun _ => zrlRule_moves t) fun _ => acRunSizeRule_moves _ _ t

theorem decodeAcs_moves (ta : Slot) (n : Nat) : ∀ s : State, (decodeAcs ta n).Moves scanning s := by
  induction n with
  | zero => exact fun s => .pure ()
  | succ n ih =>
    exact fun s => .get_bind (.ite (fun _ => .bind (decodeAc_moves ta s) fun stop t _ _ =>
      .ite (fun _ => .pure ()) fun _ => ih t) fun _ => .pure ())

theorem decodeBlock_moves (ci td ta : Slot) (s : State) : (decodeBlock ci td ta).Moves scanning s :=
  .bind (modifyWork_moves id) fun _ t _ _ => .bind (decodeDc_moves ci td t) fun _ _ _ _ =>
    .bind (modifyWork_moves fun _ => rfl) fun _ v _ _ => decodeAcs_moves ta _ v

theorem storeBlock_moves (u : DataUnit) (s : State) : (storeBlock u).Moves decoding s :=
  .of_run_ok (storeBlock_run u s) (Kept.of_image s (Memory.wf_writeBlock _ _ _ _ _)
    (fun h => h) fun h => ⟨h.soi, h.eoi, h.scans⟩)

theorem restartEffect_moves (s : State) : restartEffect.Moves scanning s := modifyWork_moves id

theorem restart_moves (s : State) : restart.Moves scanning s := by
  refine .bind (alignToByte_moves s) fun _ t _ _ => .get_bind (.ite (fun _ => scanning_raise _ _ t) fun _ =>
    .ite (fun _ => scanning_raise _ _ t) fun hcode => .bind (.of_run_ok (modifyReader_run _ t) ?_) fun _ u _ _ =>
      restartEffect_moves u)
  have hskip : t.reader.rp ≤ t.reader.skipFill t.reader.rp := Nat.le_add_right _ _
  exact Scanned.of_reader t rfl (hskip.trans (Nat.le_succ _)) (fun _ => Reader.byte?_lt (not_not.mp hcode)) id

theorem pollCancel_moves (pos : State → Nat) (s : State) : (pollCancel pos).Moves decoding s := by
  have hrun := pollCancel_run pos s
  split at hrun
  · exact .of_run_error hrun (Kept.of_cancel s _) (own_raised (pos s))
  · exact .of_run_ok hrun (Kept.of_cancel s _)

theorem mcuBegin_moves (mcu : Nat) (s : State) : (mcuBegin mcu).Moves decoding s :=
  .bind (modifyWork_moves id).weaken fun _ t _ _ => .bind (pollCancel_moves _ t) fun _ u _ _ =>
    .get_bind (.ite (fun _ => (restart_moves u).weaken) fun _ => .pure ())

theorem decodeUnits_moves (us : List DataUnit) : ∀ s : State, (decodeUnits us).Moves decoding s := by
  induction us with
  | nil => exact fun s => .pure ()
  | cons u us ih =>
    exact fun s => .bind (decodeBlock_moves _ _ _ s).weaken fun _ t _ _ => .bind (storeBlock_moves u t) fun _ v _ _ => ih v

theorem decodeMcus_moves (sc : List ScanComp) (n : Nat) : ∀ (mcu : Nat) (s : State),
    (decodeMcus sc mcu n).Moves decoding s := by
  induction n with
  | zero => exact fun mcu s => (modifyWork_moves id).weaken
  | succ n ih =>
    exact fun mcu s => .bind (mcuBegin_moves mcu s) fun _ t _ _ =>
      .get_bind (.bind (decodeUnits_moves _ t) fun _ u _ _ => ih _ u)

theorem scanBegin_moves (s : State) : scanBegin.Moves scanning s :=
  .bind (modifyWork_moves id) fun _ _ _ _ => modifyWork_moves id

theorem brAttach_rp_moves (s : State) : (brAttach s.reader.rp).Moves scanning s :=
  .of_run_ok (brAttach_run _ s) (Scanned.of_reader s rfl le_rfl id fun _ => Nat.zero_le 8)

theorem decodeScan_moves (sc : List ScanComp) (s : State) : (decodeScan sc).Moves decoding s :=
  .get_bind (.bind (brAttach_rp_moves s).weaken fun _ t _ _ => .bind (scanBegin_moves t).weaken fun _ u _ _ =>
    .get_bind (.bind (decodeMcus_moves sc _ _ u) fun _ v _ _ => (alignToByte_moves v).weaken))

/-! SOS. -/

/-- The conjuncts of `Scan.ok`, by name (spec R32). -/
structure Scan.Legal (f : Frame) (sc : Scan) : Prop where
  ns_pos : 1 ≤ sc.sc.length
  ns_le : sc.sc.length ≤ 4
  comps : ∀ c ∈ sc.sc, c.ci.val < f.nf
  nodup : (sc.sc.map ScanComp.ci).Nodup
  ss : sc.ss = 0
  se : sc.se = 63
  ah : sc.ah = 0
  al : sc.al = 0

theorem Scan.ok_iff_legal {f : Frame} {sc : Scan} : sc.ok f = true ↔ sc.Legal f := by
  simp only [Scan.ok, Bool.and_eq_true, decide_eq_true_eq, List.all_eq_true, beq_iff_eq]
  constructor
  · rintro ⟨⟨⟨⟨⟨⟨⟨hpos, hle⟩, hcomps⟩, hnodup⟩, hss⟩, hse⟩, hah⟩, hal⟩
    exact ⟨hpos, hle, hcomps, hnodup, hss, hse, hah, hal⟩
  · intro h
    exact ⟨⟨⟨⟨⟨⟨⟨h.ns_pos, h.ns_le⟩, h.comps⟩, h.nodup⟩, h.ss⟩, h.se⟩, h.ah⟩, h.al⟩

theorem Frame.findComp_lt {f : Frame} {cs : Byte} {ci : Slot} (h : f.findComp cs = some ci) :
    ci.val < f.nf ∧ (f.comp ci).c = cs := by
  have hany := List.find?_some h
  cases hd : f.comps[ci.val]? with
  | none => simp [hd] at hany
  | some d =>
    obtain ⟨hlt, hget⟩ := List.getElem?_eq_some_iff.mp hd
    refine ⟨hlt, ?_⟩
    rw [Frame.comp, List.getD_eq_getElem _ _ hlt, hget]
    simpa [hd] using hany

/-- Scan components that SOS has accepted (spec R193). -/
structure AcceptedScanComps (f : Frame) (sc : List ScanComp) : Prop where
  lt : ∀ c ∈ sc, c.ci.val < f.nf
  nodup : (sc.map ScanComp.ci).Nodup

theorem AcceptedScanComps.concat {f : Frame} {sc : List ScanComp} (h : AcceptedScanComps f sc) {d : ScanComp}
    (hd : d.ci.val < f.nf) (hnew : ¬ (sc.any fun e => e.ci == d.ci) = true) : AcceptedScanComps f (sc ++ [d]) where
  lt c hc := by
    rcases List.mem_append.mp hc with hc | hc
    · exact h.lt c hc
    · rwa [List.mem_singleton.mp hc]
  nodup := by
    rw [List.map_append, List.map_singleton, List.nodup_append]
    refine ⟨h.nodup, List.nodup_singleton _, fun a ha b hb hab => hnew ?_⟩
    obtain ⟨e, he, rfl⟩ := List.mem_map.mp ha
    rw [List.mem_singleton.mp hb] at hab
    exact List.any_eq_true.mpr ⟨e, he, by simpa using hab⟩

theorem sosComps_moves (f : Frame) : ∀ (bytes : List Byte) (acc : List ScanComp) (s : State),
    (sosComps f bytes acc).Moves scanning s
  | [], acc, s => .pure acc
  | [_], acc, s => .pure acc
  | cs :: t :: rest, acc, s => by
    rw [sosComps]
    split
    · exact scanning_refuse _ s
    · split
      · exact .ite (fun _ => scanning_refuse _ s) fun _ => sosComps_moves f rest _ s
      · exact scanning_refuse _ s

theorem sosComps_ok (f : Frame) : ∀ (bytes : List Byte) (acc sc : List ScanComp) (s t : State),
    (sosComps f bytes acc).run s = .ok sc t → AcceptedScanComps f acc →
    t = s ∧ AcceptedScanComps f sc ∧ sc.length = acc.length + bytes.length / 2
  | [], acc, sc, s, t, hrun, hacc => by cases hrun; exact ⟨rfl, hacc, rfl⟩
  | [_], acc, sc, s, t, hrun, hacc => by cases hrun; exact ⟨rfl, hacc, by simp⟩
  | cs :: tables :: rest, acc, sc, s, t, hrun, hacc => by
    rw [sosComps] at hrun
    split at hrun
    · cases hrun
    · rename_i ci hci
      split at hrun
      · split at hrun
        · cases hrun
        · rename_i td ta _ _ hnew
          obtain ⟨rfl, haccepted, hlen⟩ := sosComps_ok f rest _ sc s t hrun
            (hacc.concat (d := { ci, td, ta }) (Frame.findComp_lt hci).1 hnew)
          refine ⟨rfl, haccepted, ?_⟩
          rw [hlen, List.length_append, List.length_singleton]
          simp only [List.length_cons]
          omega
      · cases hrun

theorem acceptScan_moves {s : State} {sc : Scan} (hframe : s.image.frame.valid = true) (hsc : sc.Legal s.image.frame) :
    (acceptScan sc).Moves decoding s := by
  refine modifyImage_moves rfl (fun h => { h with scans := fun sc' hsc' => ?_, framed := fun _ => hframe })
    fun h => ⟨h.soi, fun _ => ?_, fun _ => hframe⟩
  · rcases List.mem_append.mp hsc' with hsc' | hsc'
    · exact h.scans sc' hsc'
    · rw [List.mem_singleton.mp hsc']
      exact Scan.ok_iff_legal.mpr hsc
  · simp

theorem sosHeader_moves (s : State) : sosHeader.Moves decoding s := by
  refine .bind (readSegment_moves s).weaken fun pl t _ _ =>
    .get_bind (.ite (fun _ => (misplacedMarker_moves t).weaken) fun hframe => ?_)
  split
  · exact (badLength_moves t).weaken
  · rename_i ns rest
    refine .ite (fun _ => (badLength_moves t).weaken) fun hlen => .ite (fun _ => decoding_refuse _ t) fun hns =>
      .get_bind (.bind (sosComps_moves _ _ _ t).weaken fun sc u hrun _ => ?_)
    obtain ⟨rfl, haccepted, hcount⟩ := sosComps_ok _ _ _ _ _ _ hrun ⟨nofun, List.nodup_nil⟩
    refine .ite (fun _ => decoding_refuse _ u) fun hbytes => ?_
    simp only [Bool.or_eq_true, decide_eq_true_eq, not_or, not_not, ne_eq] at hns hbytes hlen
    obtain ⟨hpos, hle⟩ := hns
    obtain ⟨⟨hss, hse⟩, ha⟩ := hbytes
    rw [List.length_nil, Nat.zero_add, List.length_take, min_eq_left (by omega)] at hcount
    rw [Config.maxComponents] at hle
    refine acceptScan_moves (Bool.eq_true_of_not_eq_false hframe) ⟨?_, ?_, haccepted.lt, haccepted.nodup, hss, hse, ?_, ?_⟩
    · show 1 ≤ sc.length
      omega
    · show sc.length ≤ 4
      omega
    · rw [ha]
      rfl
    · rw [ha]
      rfl

theorem sosRule_moves (s : State) : sosRule.Moves decoding s :=
  .bind (sosHeader_moves s) fun _ t _ _ => .get_bind (decodeScan_moves _ t)

/-! The markers and the walk. -/

theorem soiRule_moves (s : State) : soiRule.Moves decoding s :=
  .get_bind (.ite (fun _ => modifyImage_moves rfl (fun h => { h with }) fun h => ⟨rfl, h.eoi, h.scans⟩)
    fun _ => (misplacedMarker_moves s).weaken)

theorem eoiRule_moves (s : State) : eoiRule.Moves decoding s := by
  refine .get_bind (.ite (fun _ => (misplacedMarker_moves s).weaken) fun hscans =>
    modifyImage_moves rfl (fun h => { h with }) fun h => ⟨h.soi, fun _ => ?_, h.scans⟩)
  exact fun hnil => hscans (List.length_eq_zero_iff.mpr hnil)

theorem rstRule_moves (n : BitVec 3) (s : State) : (rstRule n).Moves decoding s :=
  .get_bind (.ite (fun _ => .ite (fun _ => (restartEffect_moves s).weaken) fun _ => decoding_raise _ _ s)
    fun _ => (misplacedMarker_moves s).weaken)

theorem capturedMarker_app : ∀ n : BitVec 4, capturedMarker (0xE0 + n.zeroExtend 8) = true := by decide

theorem capturedMarker_jpgLow : ∀ n : BitVec 3, capturedMarker (0xF0 + n.zeroExtend 8) = true := by decide

theorem capturedMarker_jpgMid : ∀ n : BitVec 2, capturedMarker (0xF8 + n.zeroExtend 8) = true := by decide

theorem capturedMarker_jpgHigh : ∀ n : BitVec 1, capturedMarker (0xFC + n.zeroExtend 8) = true := by decide

theorem markerRule_moves (i : Instr) (s : State) : (markerRule i).Moves decoding s := by
  cases i
  case soi => exact soiRule_moves s
  case eoi => exact eoiRule_moves s
  case sof0 => exact sof0Rule_moves s
  case sof1 | sof2 | sof3 | sof5 | sof6 | sof7 | sof9 | sof10 | sof11 | sof13 | sof14 | sof15 | jpg =>
    exact (unsupportedMode_moves s).weaken
  case dht => exact dhtRule_moves s
  case dac => exact .get_bind (decoding_raise _ _ s)
  case rst n => exact rstRule_moves n s
  case sos => exact sosRule_moves s
  case dqt => exact dqtRule_moves s
  case dri => exact driRule_moves s
  case app n => exact capture_moves (capturedMarker_app n) s
  case com | dnl | dhp | exp => exact capture_moves rfl s
  case jpgLow n => exact capture_moves (capturedMarker_jpgLow n) s
  case jpgMid n => exact capture_moves (capturedMarker_jpgMid n) s
  case jpgHigh n => exact capture_moves (capturedMarker_jpgHigh n) s
  case notACode => exact .get_bind (decoding_raise _ _ s)
  all_goals exact (misplacedMarker_moves s).weaken

theorem setMpos_moves (s : State) : setMpos.Moves scanning s := .of_run_ok rfl (Scanned.of_walk s _)

theorem walkOnce_moves (s : State) : walkOnce.Moves decoding s :=
  .bind (setMpos_moves s).weaken fun _ t _ _ => .bind (readMarker_moves t).weaken fun _ u _ _ => markerRule_moves _ u

theorem walkFrom_moves (n : Nat) : ∀ s : State, (walkFrom n).Moves decoding s := by
  induction n with
  | zero => exact fun s => .get_bind (decoding_raise _ _ s)
  | succ n ih =>
    exact fun s => .bind (walkOnce_moves s) fun _ t _ _ => .get_bind (.ite (fun _ => .pure ()) fun _ => ih t)

theorem walk_moves (s : State) : walk.Moves decoding s := .get_bind (walkFrom_moves _ s)

end Sys2Proof.Machine
end

section
/-! PROOFS of the frame: the encoder (spec R240 to R260). -/

namespace Sys2Proof.Machine

/-- What every procedure of the encoder keeps: all but the writer, the working registers and the samples of `CANCEL`, and
the ranges of those. -/
structure Coded (s t : State) : Prop where
  reader : t.reader = s.reader
  image : t.image = s.image
  status : t.status = s.status
  walk : t.walk = s.walk
  agent : t.agent = s.agent
  requests : t.port.requests = s.port.requests
  result : t.port.result = s.port.result
  writer : s.writer.ok = true → t.writer.ok = true
  work : s.work.ok = true → t.work.ok = true

namespace Coded

theorem refl (s : State) : Coded s s := ⟨rfl, rfl, rfl, rfl, rfl, rfl, rfl, id, id⟩

theorem trans {s t u : State} (h : Coded s t) (h' : Coded t u) : Coded s u where
  reader := h'.reader.trans h.reader
  image := h'.image.trans h.image
  status := h'.status.trans h.status
  walk := h'.walk.trans h.walk
  agent := h'.agent.trans h.agent
  requests := h'.requests.trans h.requests
  result := h'.result.trans h.result
  writer := h'.writer ∘ h.writer
  work := h'.work ∘ h.work

variable (s : State)

theorem of_writer {w : Writer} (h : s.writer.ok = true → w.ok = true) : Coded s { s with writer := w } :=
  { refl s with writer := h }

theorem of_work {w : Work} (h : s.work.ok = true → w.ok = true) : Coded s { s with work := w } :=
  { refl s with work := h }

theorem of_cancel (cancel : List Bool) : Coded s { s with port := { s.port with cancel := cancel } } :=
  { refl s with }

end Coded

/-- The effect of the encoder's procedures. -/
def coding : Effect where
  rel := Coded
  stops := Stop.own
  refl := Coded.refl
  trans := Coded.trans

theorem coding_raise {α : Type} (kind : ErrKind) (pos : Nat) (s : State)
    (h : kind ≠ .none ∧ kind.code ≤ 9 := by decide) : (raise kind pos : Proc α).Moves coding s := .raise h

theorem coding_refuse {α : Type} (reason : Reason) (s : State) : (refuse reason : Proc α).Moves coding s :=
  .refuse trivial

/-! The writer. -/

theorem Writer.holding_ok (out : List Byte) (bits : List Bool) : (Writer.holding out bits).ok = true := by
  have hmod : bits.length % 8 < 8 := Nat.mod_lt _ (by decide)
  have hlen : (bits.drop (8 * (bits.length / 8))).length = bits.length % 8 := by
    rw [List.length_drop]
    omega
  have hlt : bitsToNat (bits.drop (8 * (bits.length / 8))) < 2 ^ (bits.length % 8) := by
    have := bitsToNat_lt (bits.drop (8 * (bits.length / 8)))
    rwa [hlen] at this
  have hacc : (Writer.holding out bits).wacc.toNat ≤ bitsToNat (bits.drop (8 * (bits.length / 8))) := by
    rw [Writer.holding, BitVec.toNat_ofNat]
    exact Nat.mod_le _ _
  rw [Writer.ok, Bool.and_eq_true, decide_eq_true_eq, decide_eq_true_eq]
  exact ⟨Nat.le_of_lt_succ hmod, hacc.trans_lt hlt⟩

theorem Writer.foldl_writeBit_ok {w : Writer} (bits : List Bool) (h : w.ok = true) :
    (bits.foldl Writer.writeBit w).ok = true := by
  rw [Writer.eq_holding h, Writer.foldl_writeBit_holding]
  exact Writer.holding_ok _ _

theorem Writer.flush_ok {w : Writer} (h : w.ok = true) : w.flush.ok = true := by
  rw [Writer.eq_holding h, Writer.flush_holding]
  rfl

theorem writeBits_coded (value n : Nat) (s : State) : (writeBits value n).Moves coding s :=
  .ite (fun _ => coding_refuse _ s) fun _ =>
    .of_run_ok (modifyWriter_run _ s) (Coded.of_writer s (Writer.foldl_writeBit_ok _))

theorem flushWithPadding_coded (s : State) : flushWithPadding.Moves coding s :=
  .of_run_ok (modifyWriter_run _ s) (Coded.of_writer s Writer.flush_ok)

theorem putRaw_coded (bytes : List Byte) (s : State) : (putRaw bytes).Moves coding s := by
  have hrun := putRaw_run bytes s
  split at hrun
  · exact .of_run_ok hrun (Coded.of_writer s id)
  · exact .of_run_error hrun (Coded.refl s) trivial

theorem modifyWork_coded {f : Work → Work} {s : State} (h : s.work.ok = true → (f s.work).ok = true) :
    (modifyWork f).Moves coding s := .of_run_ok (modifyWork_run f s) (Coded.of_work s h)

theorem pollCancel_coded (pos : State → Nat) (s : State) : (pollCancel pos).Moves coding s := by
  have hrun := pollCancel_run pos s
  split at hrun
  · exact .of_run_error hrun (Coded.of_cancel s _) (own_raised (pos s))
  · exact .of_run_ok hrun (Coded.of_cancel s _)

/-! Symbols and blocks. -/

theorem slotCodes_coded (slot : HuffSlot) (s : State) : (slotCodes slot).Moves coding s := by
  rw [slotCodes]
  refine .ite (fun _ => .bind ?_ fun _ _ _ _ => .pure _) fun _ => .pure _
  cases h : buildTable slot.counts with
  | some codes => exact .of_run_ok (buildTableProc_run_some h s) (Coded.refl s)
  | none => exact .of_run_error (buildTableProc_run_none h s) (Coded.refl s) trivial

theorem huffEncode_coded (tc : TableClass) (th : Slot) (sym : Byte) (s : State) : (huffEncode tc th sym).Moves coding s := by
  refine .get_bind (.bind (slotCodes_coded _ s) fun table t _ _ => ?_)
  split
  · exact .get_bind (coding_raise _ _ t)
  · exact writeBits_coded _ _ t

theorem encodeDc_coded (ci td : Slot) (s : State) : (encodeDc ci td).Moves coding s :=
  .get_bind (.bind (modifyWork_coded id) fun _ t _ _ => .ite (fun _ => coding_refuse _ t) fun _ =>
    .bind (huffEncode_coded _ _ _ t) fun _ u _ _ => writeBits_coded _ _ u)

theorem emitZrls_coded (ta : Slot) (n : Nat) : ∀ s : State, (emitZrls ta n).Moves coding s := by
  induction n with
  | zero => exact fun s => .pure ()
  | succ n ih => exact fun s => .bind (huffEncode_coded _ _ _ s) fun _ t _ _ => ih t

theorem encodeAcFrom_coded (ta : Slot) (n : Nat) : ∀ (k r : Nat) (s : State), 1 ≤ k → k + n ≤ 64 →
    (encodeAcFrom ta k r n).Moves coding s := by
  have setK : ∀ (k : Nat) (s : State), 1 ≤ k → k ≤ 64 → (modifyWork fun w => { w with k := k }).Moves coding s :=
    fun k s hlow hhigh => modifyWork_coded fun _ => (Work.ok_iff _).mpr ⟨hlow, hhigh⟩
  induction n with
  | zero => exact fun k r s hlow hhigh => .bind (setK k s hlow hhigh) fun _ _ _ _ => .pure r
  | succ n ih =>
    refine fun k r s hlow hhigh => .bind (setK k s hlow (by omega)) fun _ t _ _ => .get_bind (.ite
      (fun _ => ih _ _ t (by omega) (by omega)) fun _ => .bind (emitZrls_coded ta _ t) fun _ u _ _ => .ite
        (fun _ => coding_refuse _ u) fun _ => .bind (huffEncode_coded _ _ _ u) fun _ v _ _ =>
          .bind (writeBits_coded _ _ v) fun _ w _ _ => ih _ _ w (by omega) (by omega))

theorem encodeAc_coded (ta : Slot) (s : State) : (encodeAc ta).Moves coding s :=
  .bind (encodeAcFrom_coded ta 63 1 0 s le_rfl le_rfl) fun _ t _ _ =>
    .ite (fun _ => huffEncode_coded _ _ _ t) fun _ => .pure ()

theorem encodeBlock_coded (ci td ta : Slot) (s : State) : (encodeBlock ci td ta).Moves coding s :=
  .bind (encodeDc_coded ci td s) fun _ t _ _ => encodeAc_coded ta t

/-! Scans. -/

theorem emitRestart_coded (s : State) : emitRestart.Moves coding s :=
  .bind (flushWithPadding_coded s) fun _ t _ _ => .get_bind (.bind (putRaw_coded _ t) fun _ _ _ _ => modifyWork_coded id)

/-- A read of a block changes no `k`, whatever the coefficients it leaves in `CB`. -/
theorem Work.ok_setCb (w : Work) (cb : Vector Int 64) : ({ w with cb := cb } : Work).ok = w.ok := rfl

theorem loadBlock_coded (u : DataUnit) (s : State) : (loadBlock u).Moves coding s := by
  have hwork := Work.ok_setCb s.work (s.image.plane.readBlock u.ci u.row u.col)
  exact .of_run_ok (loadBlock_run u s) (Coded.of_work s fun h => hwork.trans h)

theorem encodeUnits_coded (us : List DataUnit) : ∀ s : State, (encodeUnits us).Moves coding s := by
  induction us with
  | nil => exact fun s => .pure ()
  | cons u us ih =>
    exact fun s => .bind (loadBlock_coded u s) fun _ t _ _ => .bind (encodeBlock_coded _ _ _ t) fun _ v _ _ => ih v

theorem encodeMcuBegin_coded (mcu : Nat) (s : State) : (encodeMcuBegin mcu).Moves coding s :=
  .bind (modifyWork_coded id) fun _ t _ _ => .bind (pollCancel_coded _ t) fun _ u _ _ =>
    .get_bind (.ite (fun _ => emitRestart_coded u) fun _ => .pure ())

theorem encodeMcus_coded (sc : List ScanComp) (n : Nat) : ∀ (mcu : Nat) (s : State),
    (encodeMcus sc mcu n).Moves coding s := by
  induction n with
  | zero => exact fun mcu s => modifyWork_coded id
  | succ n ih =>
    exact fun mcu s => .bind (encodeMcuBegin_coded mcu s) fun _ t _ _ =>
      .get_bind (.bind (encodeUnits_coded _ t) fun _ u _ _ => ih _ u)

theorem scanBegin_coded (s : State) : scanBegin.Moves coding s :=
  .bind (modifyWork_coded id) fun _ _ _ _ => modifyWork_coded id

theorem encodeScan_coded (s : State) : encodeScan.Moves coding s :=
  .bind (scanBegin_coded s) fun _ t _ _ => .get_bind (encodeMcus_coded _ _ _ t)

theorem finalize_coded (s : State) : finalize.Moves coding s :=
  .bind (flushWithPadding_coded s) fun _ t _ _ => putRaw_coded _ t

/-! The emitters. -/

theorem forM_coded {α : Type} {f : α → Proc Unit} (hf : ∀ a s, (f a).Moves coding s) (xs : List α) :
    ∀ s : State, (xs.forM f).Moves coding s := by
  induction xs with
  | nil => exact fun s => .pure _
  | cons x xs ih => exact fun s => .bind (hf x s) fun _ t _ _ => ih t

theorem emitPreserved_coded (s : State) : emitPreserved.Moves coding s :=
  .get_bind (forM_coded (fun _ => putRaw_coded _) _ s)

theorem emitDqt_coded (s : State) : emitDqt.Moves coding s :=
  .get_bind (forM_coded (fun _ t => .get_bind (.ite (fun _ => putRaw_coded _ t) fun _ => coding_refuse _ t)) _ s)

theorem emitOneDht_coded (tc : TableClass) (th : Slot) (s : State) : (emitOneDht tc th).Moves coding s :=
  .get_bind (.ite (fun _ => putRaw_coded _ s) fun _ => coding_refuse _ s)

theorem emitDht_coded (s : State) : emitDht.Moves coding s :=
  .get_bind (.bind (forM_coded (emitOneDht_coded .dc) _ s) fun _ t _ _ => forM_coded (emitOneDht_coded .ac) _ t)

theorem emitSof0_coded (s : State) : emitSof0.Moves coding s := .get_bind (putRaw_coded _ s)

theorem emitDri_coded (s : State) : emitDri.Moves coding s :=
  .get_bind (.ite (fun _ => putRaw_coded _ s) fun _ => .pure ())

theorem emitSos_coded (s : State) : emitSos.Moves coding s := .get_bind (putRaw_coded _ s)

/-! The command. -/

/-- What ENCODE writes: the segments, the scan and the end (spec R242). -/
def encodeStream : Proc Unit := do
  emitSoi
  emitPreserved
  emitDqt
  emitDht
  emitSof0
  emitDri
  emitSos
  encodeScan
  finalize

/-- The state ENCODE writes its stream from (spec R241). -/
def State.encoding (s : State) : State :=
  { s with
    status := { s.status with phase := .busyEnc }
    walk := { s.walk with level := .command }
    writer := Writer.reset }

theorem encodeStream_coded (s : State) : encodeStream.Moves coding s :=
  .bind (putRaw_coded _ s) fun _ s _ _ => .bind (emitPreserved_coded s) fun _ s _ _ => .bind (emitDqt_coded s) fun _ s _ _ =>
    .bind (emitDht_coded s) fun _ s _ _ => .bind (emitSof0_coded s) fun _ s _ _ => .bind (emitDri_coded s) fun _ s _ _ =>
      .bind (emitSos_coded s) fun _ s _ _ => .bind (encodeScan_coded s) fun _ s _ _ => finalize_coded s

/-- ENCODE of a decoded stream with one scan is its stream, written from an empty `OUT`, and then the phase. -/
theorem encodeCommandProc_run {s : State} (hphase : s.status.phase = .decoded) (hscan : s.image.nscan = 1) :
    encodeCommandProc.run s = (encodeStream >>= fun _ => setPhase .decoded .command).run s.encoding := by
  rw [encodeCommandProc, Proc.get_bind_run, if_neg (not_not.mpr hphase), if_neg (not_not.mpr hscan)]
  simp only [encodeStream, bind_assoc]
  rfl

/-- What ENCODE answers: a refusal, the stream that its procedure leaves, or the stop it ends with, `OUT` discarded. -/
theorem exec_encode_cases (s : State) :
    (∃ reason, ((s.status.phase ≠ .decoded ∧ reason = Reason.badPhase) ∨
        (s.status.phase = .decoded ∧ s.image.nscan ≠ 1 ∧ reason = Reason.scanCount)) ∧
      exec .encode s = .next (takeRefusal reason { s with writer := { s.writer with out := [] } })) ∨
    (s.status.phase = .decoded ∧ s.image.nscan = 1 ∧ ∃ u, encodeStream.run s.encoding = .ok () u ∧
      exec .encode s = .next
        (({ u with
            status := { u.status with phase := .decoded }
            walk := { u.walk with level := .command } } : State).returning .none)) ∨
    (s.status.phase = .decoded ∧ s.image.nscan = 1 ∧ ∃ e u, encodeStream.run s.encoding = .error e u ∧
      exec .encode s = .next (takeStop e u)) := by
  by_cases hphase : s.status.phase = .decoded
  · by_cases hscan : s.image.nscan = 1
    · have hrun := encodeCommandProc_run hphase hscan
      rw [Proc.bind_run] at hrun
      cases h : encodeStream.run s.encoding with
      | ok v u =>
        rw [h] at hrun
        exact .inr (.inl ⟨hphase, hscan, u, rfl, runUnit_ok hrun⟩)
      | error e u =>
        rw [h] at hrun
        exact .inr (.inr ⟨hphase, hscan, e, u, rfl, runUnit_error hrun⟩)
    · exact .inl ⟨_, .inr ⟨hphase, hscan, rfl⟩,
        runUnit_error (e := .refused .scanCount) (encodeCommandProc_run_of_nscan_ne hphase hscan)⟩
  · exact .inl ⟨_, .inl ⟨hphase, rfl⟩,
      runUnit_error (e := .refused .badPhase) (encodeCommandProc_run_of_phase_ne hphase)⟩

end Sys2Proof.Machine
end

section
/-! PROOFS of the invariants: what one step keeps (spec R22 to R24, R27 to R36, R207). -/

namespace Sys2Proof.Machine

/-! What the invariants say. -/

theorem State.registersOk_iff (s : State) :
    s.registersOk = true ↔
      (s.reader.rp ≤ s.reader.inlen ∧ s.reader.rcnt ≤ 8) ∧ s.writer.ok = true ∧ s.work.ok = true := by
  simp [State.registersOk, Reader.ok, and_assoc]

/-- EOI was accepted only after SOI and a scan, a scan only after a frame (spec R28). -/
structure Image.Ordered (im : Image) : Prop where
  soi : im.fEoi = true → im.fSoi = true
  eoi : im.fEoi = true → im.scans ≠ []
  scans : im.scans ≠ [] → im.frame.valid = true

theorem State.statusOk_iff (s : State) :
    s.statusOk = true ↔
      s.status.ok = true ∧ s.image.Ordered ∧ (s.status.phase = .decoded → s.image.fEoi = true) := by
  have hscans : s.image.scans = [] ↔ ¬ s.image.scans ≠ [] := not_not.symm
  simp only [State.statusOk, State.flagsOk, Bool.and_eq_true, Bool.or_eq_true, Bool.not_eq_true', bne_iff_ne,
    List.isEmpty_eq_false_iff, List.isEmpty_iff]
  constructor
  · rintro ⟨hst, ⟨heoi, hframe⟩, hdec⟩
    refine ⟨hst, ⟨fun h => ?_, fun h => ?_, hframe.resolve_left⟩, fun h => hdec.resolve_left (not_not.mpr h)⟩
    · exact (heoi.resolve_left (by rw [h]; decide)).1
    · exact (heoi.resolve_left (by rw [h]; decide)).2
  · rintro ⟨hst, hord, hdec⟩
    refine ⟨hst, ⟨?_, ?_⟩, ?_⟩
    · cases h : s.image.fEoi
      · exact .inl rfl
      · exact .inr ⟨hord.soi h, hord.eoi h⟩
    · exact or_iff_not_imp_left.mpr hord.scans
    · exact or_iff_not_imp_left.mpr fun h => hdec (not_not.mp h)

theorem Image.sequenced_iff (im : Image) : im.Sequenced ↔ im.fSoi = true ∧ im.Ordered :=
  ⟨fun h => ⟨h.soi, ⟨fun _ => h.soi, h.eoi, h.scans⟩⟩, fun h => ⟨h.1, h.2.eoi, h.2.scans⟩⟩

/-- Each invariant, if it holds before, holds after. -/
structure Keeps (s t : State) : Prop where
  plane : s.image.plane.wf = true → t.image.plane.wf = true
  registers : s.registersOk = true → t.registersOk = true
  image : s.image.ok = true → t.image.ok = true
  status : s.statusOk = true → t.statusOk = true

namespace Keeps

theorem refl (s : State) : Keeps s s := ⟨id, id, id, id⟩

theorem trans {s t u : State} (h : Keeps s t) (h' : Keeps t u) : Keeps s u :=
  ⟨h'.plane ∘ h.plane, h'.registers ∘ h.registers, h'.image ∘ h.image, h'.status ∘ h.status⟩

theorem returning (s : State) (v : Value) : Keeps s (s.returning v) := ⟨id, id, id, id⟩

/-- What the decoder's procedures keep, as long as the sequencing flags stay in order. -/
theorem of_kept {s t : State} (h : Kept s t) (hphase : s.status.phase ≠ .decoded)
    (hordered : s.image.Ordered → t.image.Ordered) : Keeps s t where
  plane := h.plane
  registers hs := by
    obtain ⟨⟨hrp, hcnt⟩, hwriter, hwork⟩ := (State.registersOk_iff s).mp hs
    exact (State.registersOk_iff t).mpr ⟨⟨h.rp_in hrp, h.rcnt hcnt⟩, h.writer hwriter, h.work hwork⟩
  image := h.image
  status hs := by
    obtain ⟨hst, hord, -⟩ := (State.statusOk_iff s).mp hs
    refine (State.statusOk_iff t).mpr ⟨h.status ▸ hst, hordered hord, fun hdec => ?_⟩
    exact absurd (h.status ▸ hdec) hphase

theorem of_scanned {s t : State} (h : Scanned s t) (hphase : s.status.phase ≠ .decoded) : Keeps s t :=
  of_kept h.toKept hphase fun hord => h.same_image ▸ hord

/-- After SOI the flags stay in order. -/
theorem of_kept_of_soi {s t : State} (h : Kept s t) (hphase : s.status.phase ≠ .decoded) (hsoi : s.image.fSoi = true) :
    Keeps s t :=
  of_kept h hphase fun hord => (t.image.sequenced_iff.mp (h.sequenced (s.image.sequenced_iff.mpr ⟨hsoi, hord⟩))).2

theorem of_coded {s t : State} (h : Coded s t) : Keeps s t where
  plane := by rw [h.image]; exact id
  registers hs := by
    obtain ⟨⟨hrp, hcnt⟩, hwriter, hwork⟩ := (State.registersOk_iff s).mp hs
    exact (State.registersOk_iff t).mpr ⟨h.reader ▸ ⟨hrp, hcnt⟩, h.writer hwriter, h.work hwork⟩
  image := by rw [h.image]; exact id
  status hs := by
    rw [State.statusOk_iff, h.status, h.image]
    exact (State.statusOk_iff s).mp hs

end Keeps

/-! Stops. -/

theorem Writer.afterStop_ok {w : Writer} (p : Phase) (h : w.ok = true) : (w.afterStop p).ok = true := by
  cases p
  case busyEnc => rfl
  all_goals exact h

/-- Taking a stop writes the status, the writer and the level only. -/
theorem Keeps.of_stopped {s t : State} (hreader : t.reader = s.reader) (hwork : t.work = s.work) (himage : t.image = s.image)
    (hwriter : t.writer = s.writer.afterStop s.status.phase) (hstatus : s.statusOk = true → t.status.ok = true)
    (hphase : t.status.phase ≠ .decoded) : Keeps s t where
  plane := by rw [himage]; exact id
  registers hs := by
    obtain ⟨hr, hw, hk⟩ := (State.registersOk_iff s).mp hs
    rw [State.registersOk_iff, hreader, hwork, hwriter]
    exact ⟨hr, Writer.afterStop_ok _ hw, hk⟩
  image := by rw [himage]; exact id
  status hs := by
    rw [State.statusOk_iff, himage]
    exact ⟨hstatus hs, ((State.statusOk_iff s).mp hs).2.1, fun h => absurd h hphase⟩

/-- No error kind above the block's own is ever recorded (spec R29, R321). -/
theorem Status.err_le {st : Status} (h : st.ok = true) : st.err.code ≤ 9 := by
  unfold Status.ok at h
  split at h <;> simp only [Bool.and_eq_true, beq_iff_eq, decide_eq_true_eq] at h
  case h_1 | h_2 | h_3 | h_4 => rw [h.1]; decide
  case h_5 => exact h.1.2
  case h_6 => exact h.1

/-- A reason is recorded by a refusal only (spec R29). -/
theorem Status.rreason_none {st : Status} (h : st.ok = true) (hphase : st.phase ≠ .refused) : st.rreason = none := by
  unfold Status.ok at h
  split at h <;> simp only [Bool.and_eq_true, beq_iff_eq] at h
  case h_6 hrefused => exact absurd hrefused hphase
  all_goals exact h.2

theorem Keeps.takeRefusal (reason : Reason) (s : State) : Keeps s (takeRefusal reason s) :=
  .of_stopped rfl rfl rfl rfl (fun hs => by
    have hle := Status.err_le ((State.statusOk_iff s).mp hs).1
    simp [Machine.takeRefusal, Status.ok, hle]) nofun

theorem Keeps.takeError {kind : ErrKind} (pos : Nat) {s : State} (hkind : (Stop.raised kind pos).own)
    (hphase : s.status.phase ≠ .refused) : Keeps s (takeError kind pos s) := by
  refine .of_stopped rfl rfl rfl rfl (fun hs => ?_) nofun
  obtain ⟨hne, hle⟩ := hkind
  have hreason := Status.rreason_none ((State.statusOk_iff s).mp hs).1 hphase
  simpa [Machine.takeError, Status.ok, hreason] using ⟨hne, hle⟩

theorem Keeps.takeStop {e : Stop} {s : State} (he : e.own) (hphase : s.status.phase ≠ .refused) : Keeps s (takeStop e s) := by
  cases e with
  | raised kind pos => exact .takeError pos he hphase
  | refused reason => exact .takeRefusal reason s

/-! An instruction that runs a procedure of the decoder. -/

section
variable {α : Type} {value : α → Value} {p : Proc α} {s u : State}

theorem Keeps.of_moves {E : Effect} (hp : p.Moves E s) (hrel : ∀ t, E.rel s t → Keeps s t ∧ t.status.phase ≠ .refused)
    (hstops : ∀ e, E.stops e → e.own) (h : runProc value p s = .next u) : Keeps s u := by
  obtain ⟨a, t, hrun, rfl⟩ | ⟨e, t, hrun, rfl⟩ := runProc_cases h
  · exact (hrel t (hp.ok a t hrun)).1.trans (.returning t _)
  · obtain ⟨hst, hstop⟩ := hp.error e t hrun
    exact (hrel t hst).1.trans (.takeStop (hstops e hstop) (hrel t hst).2)

theorem Keeps.of_scanning (hp : p.Moves scanning s) (hphase : s.status.phase = .busyDec) (h : runProc value p s = .next u) :
    Keeps s u :=
  .of_moves hp (fun t ht => ⟨.of_scanned ht (by rw [hphase]; decide), by rw [ht.status, hphase]; decide⟩) (fun _ => id) h

theorem Keeps.of_decoding (hp : p.Moves decoding s) (hphase : s.status.phase = .busyDec) (hsoi : s.image.fSoi = true)
    (h : runProc value p s = .next u) : Keeps s u :=
  .of_moves hp (fun t ht => ⟨.of_kept_of_soi ht (by rw [hphase]; decide) hsoi,
    by rw [ht.status, hphase]; decide⟩) (fun _ => id) h

end

/-! What a decode in progress goes on with. -/

theorem Scanned.of_work_walk (s : State) {w : Work} (h : s.work.ok = true → w.ok = true) (wk : Sequencer) :
    Scanned s { s with work := w, walk := wk } := (Scanned.of_work s h).trans (Scanned.of_walk _ wk)

theorem nextUnit_scanned (s : State) : Scanned s (nextUnit s) := by
  unfold nextUnit
  split
  · exact .of_work_walk s (by simp only [Work.ok_iff, imp_self]) _
  · exact .of_work_walk s (by simp only [Work.ok_iff, imp_self]) _

theorem startUnits_scanned (s : State) : Scanned s (startUnits s) :=
  (Scanned.of_walk s _).trans (nextUnit_scanned _)

theorem unitDone_keeps {s : State} (hphase : s.status.phase = .busyDec) : Keeps s (unitDone s) := by
  have hstore : Kept s { s with image :=
      { s.image with plane := s.image.plane.writeBlock s.walk.du.ci s.walk.du.row s.walk.du.col s.work.cb } } :=
    .of_image s (Memory.wf_writeBlock _ _ _ _ _) (fun h => h) fun h => ⟨h.soi, h.eoi, h.scans⟩
  have hne : s.status.phase ≠ .decoded := by rw [hphase]; decide
  exact (Keeps.of_kept hstore hne fun h => ⟨h.soi, h.eoi, h.scans⟩).trans (.of_scanned (nextUnit_scanned _) hne)

/-- The walk ends in `DECODED` with EOI accepted (spec R180, R207). -/
theorem Keeps.decoded {s : State} (hphase : s.status.phase = .busyDec) (heoi : s.image.fEoi = true) :
    Keeps s { s with status := { s.status with phase := .decoded }, walk := { s.walk with level := .command } } where
  plane := id
  registers := id
  image := id
  status hs := by
    obtain ⟨hst, hord, -⟩ := (State.statusOk_iff s).mp hs
    refine (State.statusOk_iff _).mpr ⟨?_, hord, fun _ => heoi⟩
    simpa only [Status.ok, hphase] using hst

theorem complete_keeps (l : Level) (i : Instr) (t : State) : Keeps t (complete l i t) := by
  by_cases hphase : t.status.phase = .busyDec
  · have hne : t.status.phase ≠ .decoded := by rw [hphase]; decide
    unfold complete
    rw [hphase]
    cases l <;> dsimp only
    case command => exact .refl t
    case marker =>
      split
      · exact .decoded hphase ‹_›
      · exact .refl t
    case mcu =>
      split
      · exact .of_scanned (startUnits_scanned t) hne
      · exact .refl t
    case dc =>
      split
      · exact .refl t
      · exact .of_scanned (.of_work_walk t (fun _ => rfl) _) hne
    case ac =>
      split
      · exact .refl t
      · exact unitDone_keeps hphase
      · split
        · exact unitDone_keeps hphase
        · exact .refl t
  · rw [complete_of_phase_ne hphase]
    exact .refl t

end Sys2Proof.Machine
end

section
/-! PROOFS of the invariants: the fetches, the commands and the step (spec R80, R99, R331). -/

namespace Sys2Proof.Machine

/-! The commands. -/

/-- What a command on the coefficient cells may do: change the plane and keep its canonical form, or be refused. -/
def celling : Effect where
  rel s t := ∃ m : Memory, (s.image.plane.wf = true → m.wf = true) ∧ t = s.withPlane m
  stops e := ∃ reason, e = .refused reason
  refl s := ⟨s.image.plane, id, rfl⟩
  trans := by
    rintro s t u ⟨m, hm, rfl⟩ ⟨m', hm', rfl⟩
    exact ⟨m', hm' ∘ hm, rfl⟩

theorem keeps_withPlane {s : State} {m : Memory} (h : s.image.plane.wf = true → m.wf = true) : Keeps s (s.withPlane m) :=
  ⟨h, id, id, id⟩

theorem Keeps.of_celling {α : Type} {value : α → Value} {p : Proc α} {s u : State} (hp : p.Moves celling s)
    (h : runProc value p s = .next u) : Keeps s u := by
  obtain ⟨a, t, hrun, rfl⟩ | ⟨e, t, hrun, rfl⟩ := runProc_cases h
  · obtain ⟨m, hm, rfl⟩ := hp.ok a t hrun
    exact (keeps_withPlane hm).trans (.returning _ _)
  · obtain ⟨⟨m, hm, rfl⟩, reason, rfl⟩ := hp.error e t hrun
    exact (keeps_withPlane hm).trans (.takeRefusal reason _)

theorem celling_refuse {α : Type} (reason : Reason) (s : State) : (refuse reason : Proc α).Moves celling s :=
  .refuse ⟨reason, rfl⟩

theorem onDecoded_celling {α : Type} {inRange : Frame → Bool} {body : Proc α} {s : State} (h : body.Moves celling s) :
    (onDecoded inRange body).Moves celling s :=
  .get_bind (.ite (fun _ => celling_refuse _ s) fun _ => .ite (fun _ => celling_refuse _ s) fun _ => h)

theorem tableOf_celling (c : Nat) (s : State) : (tableOf c).Moves celling s :=
  .get_bind (.ite (fun _ => .pure _) fun _ => celling_refuse _ s)

/-- A write to the plane. -/
theorem modifyPlane_celling {f : Memory → Memory} (hf : ∀ m, m.wf = true → (f m).wf = true) (s : State) :
    (modifyImage fun im => { im with plane := f im.plane }).Moves celling s :=
  .of_run_ok (modifyImage_run _ s) ⟨f s.image.plane, hf _, rfl⟩

theorem resetBlock_keeps (s : State) : Keeps s (resetBlock s) where
  plane _ := rfl
  registers _ := rfl
  image _ := by
    have h : State.reset.ok = true := resetStateIsLegal
    rw [State.ok, Bool.and_eq_true, Bool.and_eq_true] at h
    exact h.1.2
  status _ := rfl

theorem begun_keeps {s : State} (h : s.status.phase = .idle ∨ s.status.phase = .decoded) (buf : List Byte) :
    Keeps s (s.begun buf) where
  plane := (resetBlock_keeps s).plane
  registers hs := by
    obtain ⟨-, hwriter, -⟩ := (State.registersOk_iff s).mp hs
    exact (State.registersOk_iff _).mpr ⟨⟨Nat.zero_le _, Nat.zero_le 8⟩, hwriter, rfl⟩
  image := (resetBlock_keeps s).image
  status hs := by
    obtain ⟨hst, -, -⟩ := (State.statusOk_iff s).mp hs
    refine (State.statusOk_iff _).mpr ⟨?_, ⟨nofun, nofun, fun h => absurd rfl h⟩, nofun⟩
    rcases h with h | h <;> simpa only [State.begun, Status.ok, h] using hst

/-- The walk ends ok after EOI only (spec R182). -/
theorem walkFrom_ok_fEoi {n : Nat} : ∀ {s t : State}, (walkFrom n).run s = .ok () t → t.image.fEoi = true := by
  induction n with
  | zero => exact fun h => nomatch h
  | succ n ih =>
    intro s t h
    obtain ⟨_, u, -, hrest⟩ := Proc.bind_eq_ok h
    rw [Proc.get_bind_run] at hrest
    split at hrest
    · cases hrest
      assumption
    · exact ih hrest

/-- SOI accepted at the start of the buffer (spec R181). -/
theorem acceptSoi_keeps {s : State} {r : Reader} (hphase : s.status.phase = .busyDec) (hinp : r.inp = s.reader.inp)
    (hrp : r.rp ≤ s.reader.inlen) (hcnt : s.reader.rcnt ≤ 8 → r.rcnt ≤ 8) :
    Keeps s { s with reader := r, image := { s.image with fSoi := true } } where
  plane := id
  registers hs := by
    obtain ⟨⟨-, hcnt8⟩, hwriter, hwork⟩ := (State.registersOk_iff s).mp hs
    refine (State.registersOk_iff _).mpr ⟨⟨?_, hcnt hcnt8⟩, hwriter, hwork⟩
    simpa only [Reader.inlen, hinp] using hrp
  image h := (Image.ok_iff_legal _).mpr { (Image.ok_iff_legal _).mp h with }
  status hs := by
    obtain ⟨hst, hord, -⟩ := (State.statusOk_iff s).mp hs
    refine (State.statusOk_iff _).mpr ⟨hst, ⟨fun _ => rfl, hord.eoi, hord.scans⟩, fun h => ?_⟩
    exact absurd (hphase.symm.trans h) (by decide)

theorem checkSoi_ok {s t : State} {u : Unit} (h : checkSoi.run s = .ok u t) :
    2 ≤ s.reader.inlen ∧
      t = { s with reader := { s.reader with rp := 2 }, image := { s.image with fSoi := true } } := by
  rw [checkSoi_run] at h
  split_ifs at h with hlen hsoi
  cases h
  exact ⟨not_lt.mp hlen, rfl⟩

theorem checkSoi_error {s t : State} {e : Stop} (h : checkSoi.run s = .error e t) : e.own ∧ t = s := by
  rw [checkSoi_run] at h
  split_ifs at h with hlen hsoi <;> cases h
  · exact ⟨own_raised _, rfl⟩
  · exact ⟨own_raised _, rfl⟩

theorem checkSoi_keeps {s t : State} {u : Unit} (hphase : s.status.phase = .busyDec) (h : checkSoi.run s = .ok u t) :
    Keeps s t ∧ t.status.phase = .busyDec ∧ t.image.fSoi = true := by
  obtain ⟨hlen, rfl⟩ := checkSoi_ok h
  exact ⟨acceptSoi_keeps hphase rfl hlen id, hphase, rfl⟩

theorem walk_keeps {s t : State} {u : Unit} (hphase : s.status.phase = .busyDec) (hsoi : s.image.fSoi = true)
    (h : walk.run s = .ok u t) : Keeps s t ∧ t.status.phase = .busyDec ∧ t.image.fEoi = true := by
  have hkept := (walk_moves s).ok u t h
  rw [walk, Proc.get_bind_run] at h
  exact ⟨.of_kept_of_soi hkept (by rw [hphase]; decide) hsoi, hkept.status ▸ hphase, walkFrom_ok_fEoi h⟩

/-- SOI, the walk and the phase, however they end (spec R180, R207). -/
theorem decodeStream_keeps {s u : State} (hphase : s.status.phase = .busyDec)
    (h : runUnit (checkSoi >>= fun _ => walk >>= fun _ => setPhase .decoded .command) s = .next u) : Keeps s u := by
  have hne : ∀ t : State, t.status.phase = .busyDec → t.status.phase ≠ .refused := fun t ht => by rw [ht]; decide
  obtain ⟨_, v, hrun, rfl⟩ | ⟨e, v, hrun, rfl⟩ := runProc_cases h
  · obtain ⟨_, t1, hsoi, hrest⟩ := Proc.bind_eq_ok hrun
    obtain ⟨hkeeps1, hphase1, hflag⟩ := checkSoi_keeps hphase hsoi
    obtain ⟨_, t2, hwalk, hlast⟩ := Proc.bind_eq_ok hrest
    obtain ⟨hkeeps2, hphase2, heoi⟩ := walk_keeps hphase1 hflag hwalk
    cases hlast
    exact hkeeps1.trans (hkeeps2.trans ((Keeps.decoded hphase2 heoi).trans (.returning _ _)))
  · rw [Proc.bind_run] at hrun
    cases hsoi : checkSoi.run s with
    | error e' t1 =>
      obtain ⟨hown, rfl⟩ := checkSoi_error hsoi
      rw [hsoi] at hrun
      cases hrun
      exact .takeStop hown (hne _ hphase)
    | ok _ t1 =>
      obtain ⟨hkeeps1, hphase1, hflag⟩ := checkSoi_keeps hphase hsoi
      rw [hsoi] at hrun
      dsimp only at hrun
      rw [Proc.bind_run] at hrun
      cases hwalk : walk.run t1 with
      | ok _ t2 =>
        rw [hwalk] at hrun
        cases hrun
      | error e' t2 =>
        obtain ⟨hkept, hown⟩ := (walk_moves t1).error _ _ hwalk
        rw [hwalk] at hrun
        cases hrun
        refine hkeeps1.trans ((Keeps.of_kept_of_soi hkept (by rw [hphase1]; decide) hflag).trans (.takeStop hown ?_))
        exact hne _ (hkept.status ▸ hphase1)

theorem exec_decode_keeps {s u : State} {buf : List Byte} (h : exec (.decode buf) s = .next u) : Keeps s u := by
  rw [exec_decode] at h
  by_cases hphase : s.status.phase = .idle ∨ s.status.phase = .decoded
  · rw [runUnit, runProc, decodeCommandProc_run hphase buf] at h
    exact (begun_keeps hphase buf).trans (decodeStream_keeps rfl h)
  · obtain ⟨hidle, hdecoded⟩ := not_or.mp hphase
    rw [runUnit_error (e := .refused .badPhase) (decodeCommandProc_run_of_phase_ne hidle hdecoded buf)] at h
    cases h
    exact .takeRefusal _ s

/-- What ENCODE keeps before it writes and when it is refused. -/
theorem keeps_resetWriter {s : State} {w : Writer} (hw : s.writer.ok = true → w.ok = true) : Keeps s { s with writer := w } :=
  .of_coded (.of_writer s hw)

theorem encoding_keeps {s : State} (hphase : s.status.phase = .decoded) : Keeps s s.encoding where
  plane := id
  registers hs := by
    obtain ⟨hreader, -, hwork⟩ := (State.registersOk_iff s).mp hs
    exact (State.registersOk_iff _).mpr ⟨hreader, rfl, hwork⟩
  image := id
  status hs := by
    obtain ⟨hst, hord, -⟩ := (State.statusOk_iff s).mp hs
    refine (State.statusOk_iff _).mpr ⟨?_, hord, nofun⟩
    simpa only [State.encoding, Status.ok, hphase] using hst

/-- The end of ENCODE: the image it was called on was decoded, and still is (spec R240, R241). -/
theorem encode_keeps_of_ok {s u : State} (hphase : s.status.phase = .decoded) (h : encodeStream.run s.encoding = .ok () u) :
    Keeps s { u with status := { u.status with phase := .decoded }, walk := { u.walk with level := .command } } := by
  have hcoded := (encodeStream_coded _).ok () u h
  have hkeeps := (encoding_keeps hphase).trans (.of_coded hcoded)
  refine ⟨hkeeps.plane, hkeeps.registers, hkeeps.image, fun hs => ?_⟩
  obtain ⟨hst, hord, hdec⟩ := (State.statusOk_iff s).mp hs
  refine (State.statusOk_iff _).mpr ⟨?_, hcoded.image ▸ hord, fun _ => hcoded.image ▸ hdec hphase⟩
  simpa only [Status.ok, hcoded.status, State.encoding, hphase] using hst

theorem exec_encode_keeps {s u : State} (h : exec .encode s = .next u) : Keeps s u := by
  obtain ⟨reason, -, hnext⟩ | ⟨hphase, -, v, hrun, hnext⟩ | ⟨hphase, -, e, v, hrun, hnext⟩ := exec_encode_cases s <;>
    rw [hnext] at h <;> cases h
  · exact (keeps_resetWriter (w := { s.writer with out := [] }) fun hw => hw).trans (.takeRefusal reason _)
  · exact (encode_keeps_of_ok hphase hrun).trans (.returning _ _)
  · obtain ⟨hcoded, hown⟩ := (encodeStream_coded _).error e v hrun
    refine (encoding_keeps hphase).trans ((Keeps.of_coded hcoded).trans (.takeStop hown ?_))
    rw [hcoded.status]
    exact nofun

theorem PhasedCommand.exec_keeps {i : Instr} (hi : PhasedCommand i) {s u : State} (h : exec i s = .next u) : Keeps s u := by
  cases hi with
  | decode buf => exact exec_decode_keeps h
  | encode => exact exec_encode_keeps h
  | dequant c row col =>
    rw [exec_dequant] at h
    exact .of_celling (onDecoded_celling (.bind (tableOf_celling c s) fun q t _ _ => .get_bind (.pure _))) h
  | quant c row col d =>
    rw [exec_quant] at h
    exact .of_celling (onDecoded_celling (.bind (tableOf_celling c s) fun q t _ _ => .ite
      (fun _ => celling_refuse _ t) fun _ => modifyPlane_celling (fun m => Memory.wf_writeBlock m _ _ _ _) t)) h
  | rdcoef c row col i =>
    rw [exec_rdcoef] at h
    have hbody : (do return (← get).image.plane.read (cellAddr c row col i) : Proc Int).Moves celling s :=
      .get_bind (.pure _)
    exact .of_celling (onDecoded_celling hbody) h
  | wrcoef c row col i v =>
    rw [exec_wrcoef] at h
    exact .of_celling (onDecoded_celling (modifyPlane_celling (fun m => Memory.wf_write m _ _) s)) h

theorem exec_reservedCommand (code : Byte) (s : State) :
    exec (.reservedCommand code) s = .next (takeRefusal .badOperand s) := by rfl

theorem exec_decodeCommand_keeps {r : Request} {s u : State} (h : exec (decodeCommand r) s = .next u) : Keeps s u := by
  obtain ⟨-, hreset⟩ | ⟨-, -, hphased⟩ | ⟨-, hreserved⟩ := decodeCommand_cases r
  · rw [hreset, exec_reset] at h
    cases h
    exact resetBlock_keeps s
  · exact hphased.exec_keeps h
  · rw [hreserved, exec_reservedCommand] at h
    cases h
    exact .takeRefusal _ s

/-! The fetches of a decode in progress. -/

theorem fillByte_moves (s : State) : fillByte.Moves scanning s := by
  refine .get_bind ?_
  dsimp only
  split
  · exact scanning_raise _ _ s
  · rename_i b hb
    exact .ite (fun _ => scanning_raise _ _ s) fun _ => .bind
      (.of_run_ok (modifyReader_run _ s) (Scanned.of_reader s rfl (Nat.le_succ _) (fun _ => Reader.byte?_lt hb) id))
      fun _ t _ _ => .of_run_ok (modifyWalk_run _ t) (Scanned.of_walk t _)

theorem stuff_moves (s : State) : stuff.Moves scanning s := by
  have hrun := stuff_run s
  split at hrun
  · rename_i h
    have hlt := Reader.byte?_lt ((Reader.holds_pair_iff _ _ _).mp h).2
    exact .of_run_ok hrun (Scanned.of_reader s rfl (Nat.le_add_right _ 2) (fun _ => hlt) fun _ => le_rfl)
  · exact .of_run_error hrun (Scanned.refl s) trivial

theorem padding_moves {s : State} (hphase : s.status.phase ≠ .busyEnc) (n : Nat) : (padding n).Moves scanning s := by
  have hrun := padding_run_of_ne hphase n
  split at hrun
  · exact .of_run_ok hrun (Scanned.of_reader s rfl le_rfl id fun _ => Nat.zero_le 8)
  · exact .of_run_error hrun (Scanned.refl s) trivial

theorem rstRule_scanning (n : BitVec 3) (s : State) : (rstRule n).Moves scanning s :=
  .get_bind (.ite (fun _ => .ite (fun _ => restartEffect_moves s) fun _ => scanning_raise _ _ s)
    fun _ => misplacedMarker_moves s)

/-- The marker rows but FILL run the rules of the walk (spec R82, R182). -/
theorem exec_markerRows : ∀ row ∈ markerRows.dropLast, ∀ (m : Byte) (s : State),
    exec (row.build m) s = runUnit (markerRule (row.build m)) s := by
  intro row hrow m s
  fin_cases hrow <;> rfl

/-- Every code byte runs a procedure of the decoder. -/
theorem exec_decodeMarkerCode (m : Byte) (s : State) :
    ∃ p : Proc Unit, exec (decodeMarkerCode m) s = runUnit p s ∧ p.Moves decoding s := by
  have hrows : markerRows = markerRows.dropLast ++ [⟨0xFF, 0xFF, fun _ => .fill⟩] := rfl
  unfold decodeMarkerCode
  split
  · rename_i row hfind
    have hmem := List.mem_of_find?_eq_some hfind
    rw [hrows, List.mem_append, List.mem_singleton] at hmem
    rcases hmem with hmem | rfl
    · exact ⟨_, exec_markerRows row hmem m s, markerRule_moves _ s⟩
    · exact ⟨fillByte, exec_fill s, (fillByte_moves s).weaken⟩
  · exact ⟨misplacedMarker, rfl, (misplacedMarker_moves s).weaken⟩

theorem exec_decodeMarkerCode_keeps {m : Byte} {s u : State} (hphase : s.status.phase = .busyDec)
    (hsoi : s.image.fSoi = true) (h : exec (decodeMarkerCode m) s = .next u) : Keeps s u := by
  obtain ⟨p, hexec, hmoves⟩ := exec_decodeMarkerCode m s
  rw [hexec] at h
  exact .of_decoding hmoves hphase hsoi h

/-- Every fetch keeps the invariants, and so does the instruction it answers. -/
def Fetched.Keeps (s : State) : Fetched → Prop
  | .internal t => Machine.Keeps s t
  | .stopped e t => e.own ∧ t.status.phase ≠ .refused ∧ Machine.Keeps s t
  | .run i t => Machine.Keeps s t ∧ ∀ u, exec i t = .next u → Machine.Keeps t u

theorem step_keeps_of_fetch {s t : State} (hfetch : (fetch s).Keeps s) (h : step s = .next t) : Keeps s t := by
  unfold step at h
  split at h
  · rename_i hinternal
    rw [hinternal] at hfetch
    cases h
    exact hfetch
  · rename_i hstopped
    rw [hstopped] at hfetch
    obtain ⟨hown, hphase, hkeeps⟩ := hfetch
    cases h
    exact hkeeps.trans (.takeStop hown hphase)
  · rename_i hrun
    rw [hrun] at hfetch
    obtain ⟨hkeeps, hexec⟩ := hfetch
    split at h <;> cases h
    exact hkeeps.trans ((hexec _ ‹_›).trans (complete_keeps _ _ _))

/-- A fetch that reads the stream. -/
theorem Fetched.keeps_ofResult {s : State} {p : Proc Instr} (hp : p.Moves scanning s) (hphase : s.status.phase = .busyDec)
    (hexec : ∀ i t, p.run s = .ok i t → Scanned s t → ∀ u, exec i t = .next u → Machine.Keeps t u) :
    (Fetched.ofResult (p.run s)).Keeps s := by
  have hne : s.status.phase ≠ .decoded := by rw [hphase]; decide
  cases h : p.run s with
  | ok i t => exact ⟨.of_scanned (hp.ok i t h) hne, hexec i t h (hp.ok i t h)⟩
  | error e t =>
    obtain ⟨hrel, hown⟩ := hp.error e t h
    exact ⟨hown, by rw [hrel.status, hphase]; decide, .of_scanned hrel hne⟩

theorem fetchCommand_keeps (s : State) : (fetchCommand s).Keeps s := by
  unfold fetchCommand
  split
  · exact .refl s
  · exact ⟨⟨id, id, id, id⟩, fun u h => exec_decodeCommand_keeps h⟩

/-- Where a marker is fetched, it is one of the table's rows. -/
theorem fetchMarker_ok {s t : State} {i : Instr} (h : fetchMarker.run s = .ok i t) :
    ∃ m, i = decodeMarkerCode m := by
  have hfill : decodeMarkerCode 0xFF = .fill := by decide
  have hzero : decodeMarkerCode 0x00 = .notACode := by decide
  have hread : ∀ {v : State}, (setMpos >>= fun _ => readMarker >>= fun m => pure (decodeMarkerCode m) : Proc Instr).run v =
      .ok i t → ∃ m, i = decodeMarkerCode m := by
    intro v hrun
    obtain ⟨_, v1, -, hrun1⟩ := Proc.bind_eq_ok hrun
    obtain ⟨m, v2, -, hrun2⟩ := Proc.bind_eq_ok hrun1
    cases hrun2
    exact ⟨m, rfl⟩
  rw [fetchMarker, Proc.get_bind_run] at h
  dsimp only at h
  split at h
  · split_ifs at h
    · cases h
      exact ⟨0xFF, hfill.symm⟩
    · obtain ⟨_, v1, -, hrun1⟩ := Proc.bind_eq_ok h
      obtain ⟨_, v2, -, hrun2⟩ := Proc.bind_eq_ok hrun1
      cases hrun2
      exact ⟨0x00, hzero.symm⟩
    · exact hread h
  · exact hread h

theorem fetchMarker_moves (s : State) : fetchMarker.Moves scanning s := by
  have hread : (setMpos >>= fun _ => readMarker >>= fun m => pure (decodeMarkerCode m) : Proc Instr).Moves scanning s :=
    .bind (setMpos_moves s) fun _ t _ _ => .bind (readMarker_moves t) fun _ _ _ _ => .pure _
  refine .get_bind ?_
  dsimp only
  split
  · rename_i b m _ hm
    refine .ite (fun _ => .pure _) fun _ => .ite (fun _ => ?_) fun _ => hread
    refine .bind (.of_run_ok rfl (Scanned.of_walk s _)) fun _ t hrun hrel =>
      .bind (.of_run_ok (modifyReader_run _ t) ?_) fun _ _ _ _ => .pure _
    cases hrun
    exact Scanned.of_reader _ rfl (Nat.le_add_right _ 2) (fun _ => Reader.byte?_lt hm) fun _ => Nat.zero_le 8
  · exact hread

/-- The fetch of SOI, and SOI itself (spec R181). -/
theorem fetchSoi_keeps {s : State} (hphase : s.status.phase = .busyDec) :
    (Fetched.ofResult (fetchSoi.run s)).Keeps s := by
  have hne : s.status.phase ≠ .refused := by rw [hphase]; decide
  rw [fetchSoi, Proc.get_bind_run]
  dsimp only
  split_ifs with hlen hsoi
  · exact ⟨own_raised _, hne, .refl s⟩
  · exact ⟨own_raised _, hne, .refl s⟩
  · have hlen2 : 2 ≤ s.reader.inlen := not_lt.mp hlen
    let t : State := { s with
      reader := { s.reader with rp := 2, rcnt := 0 }, walk := { s.walk with mpos := 0, fills := 0 } }
    have hkeeps : Keeps s t :=
      { plane := id, image := id, status := id,
        registers := fun hs => by
          obtain ⟨-, hrest⟩ := (State.registersOk_iff s).mp hs
          exact (State.registersOk_iff _).mpr ⟨⟨hlen2, Nat.zero_le 8⟩, hrest⟩ }
    refine ⟨hkeeps, fun u h => ?_⟩
    rw [exec_soi, runUnit] at h
    obtain ⟨_, v, hrun, rfl⟩ | ⟨e, v, hrun, rfl⟩ := runProc_cases h <;> rw [soiRule_run] at hrun <;> split_ifs at hrun <;>
      cases hrun
    · exact (acceptSoi_keeps (s := t) (r := t.reader) hphase rfl hlen2 id).trans (.returning _ _)
    · exact .takeStop (own_raised _) hne

theorem fetchRestart_moves (s : State) : fetchRestart.Moves scanning s := by
  refine .bind (alignToByte_moves s) fun _ t _ _ => .get_bind (.ite (fun _ => scanning_raise _ _ t) fun _ => ?_)
  dsimp only
  split
  · rename_i n hcode
    obtain ⟨m, hbyte, -⟩ := Option.map_eq_some_iff.mp hcode
    have hskip : t.reader.rp ≤ t.reader.skipFill t.reader.rp := Nat.le_add_right _ _
    refine .bind (setMpos_moves t) fun _ v hrun hrel => .bind (.of_run_ok (modifyReader_run _ v) ?_) fun _ _ _ _ => .pure _
    cases hrun
    exact Scanned.of_reader _ rfl (hskip.trans (Nat.le_succ _)) (fun _ => Reader.byte?_lt hbyte) id
  · exact scanning_raise _ _ t

/-- A restart marker is all that is fetched at a restart point (spec R203). -/
theorem fetchRestart_ok {s t : State} {i : Instr} (h : fetchRestart.run s = .ok i t) : ∃ n, i = .rst n := by
  obtain ⟨_, v, -, hrun⟩ := Proc.bind_eq_ok h
  rw [Proc.get_bind_run] at hrun
  dsimp only at hrun
  split at hrun
  · cases hrun
  · split at hrun
    · rename_i n _
      obtain ⟨_, v1, -, hrun1⟩ := Proc.bind_eq_ok hrun
      obtain ⟨_, v2, -, hrun2⟩ := Proc.bind_eq_ok hrun1
      cases hrun2
      exact ⟨n, rfl⟩
    · cases hrun

theorem pollCancel_ok_image {pos : State → Nat} {s t : State} {a : Unit} (h : (pollCancel pos).run s = .ok a t) :
    t.image = s.image := by
  rw [pollCancel_run] at h
  split at h <;> cases h
  rfl

theorem pollCancel_error_image {pos : State → Nat} {s t : State} {e : Stop} (h : (pollCancel pos).run s = .error e t) :
    t.image = s.image := by
  rw [pollCancel_run] at h
  split at h <;> cases h
  rfl

theorem fetchMcu_keeps {s : State} (hphase : s.status.phase = .busyDec) : (fetchMcu s).Keeps s := by
  have hne : s.status.phase ≠ .decoded := by rw [hphase]; decide
  unfold fetchMcu
  split
  · cases h : (pollCancel fun t => t.reader.rp).run s with
    | error e t =>
      obtain ⟨hrel, hown⟩ := (pollCancel_moves _ s).error e t h
      exact ⟨hown, by rw [hrel.status, hphase]; decide, .of_kept hrel hne fun hord => pollCancel_error_image h ▸ hord⟩
    | ok _ t =>
      have hrel := (pollCancel_moves _ s).ok _ t h
      have hkeep : Keeps s t := .of_kept hrel hne fun hord => pollCancel_ok_image h ▸ hord
      have hphase' : t.status.phase = .busyDec := hrel.status ▸ hphase
      dsimp only
      split
      · have hkeeps := Fetched.keeps_ofResult (fetchRestart_moves t) hphase' fun i v hrun hrel' u hexec => by
          obtain ⟨n, rfl⟩ := fetchRestart_ok hrun
          rw [exec_rst] at hexec
          exact .of_scanning (rstRule_scanning n v) (hrel'.status ▸ hphase') hexec
        cases hr : fetchRestart.run t with
        | ok i v => rw [hr] at hkeeps; exact ⟨hkeep.trans hkeeps.1, hkeeps.2⟩
        | error e v => rw [hr] at hkeeps; exact ⟨hkeeps.1, hkeeps.2.1, hkeep.trans hkeeps.2.2⟩
      · exact hkeep.trans (.of_scanned (startUnits_scanned t) (hrel.status ▸ hne))
  · split
    · refine ⟨.refl s, fun u h => ?_⟩
      rw [exec_pad] at h
      exact .of_scanning (padding_moves (by rw [hphase]; decide) _) hphase h
    · exact .of_scanned ((Scanned.of_reader s (r := { s.reader with rcnt := 0 }) rfl le_rfl id
        fun _ => Nat.zero_le 8).trans (Scanned.of_walk _ _)) hne

theorem exec_stuff_keeps {s u : State} (hphase : s.status.phase = .busyDec) (h : exec .stuff s = .next u) : Keeps s u := by
  rw [exec_stuff] at h
  exact .of_scanning (stuff_moves s) hphase h

theorem exec_decodeDcSymbol_keeps {sym : Byte} {s u : State} (hphase : s.status.phase = .busyDec)
    (h : exec (decodeDcSymbol sym) s = .next u) : Keeps s u := by
  by_cases hsym : sym.toNat < 12
  · rw [decodeDcSymbol, dif_pos hsym, exec_dcSize] at h
    exact .of_scanning (dcSizeRule_moves _ _ s) hphase h
  · rw [decodeDcSymbol_of_le (not_lt.mp hsym)] at h
    exact .of_scanning (p := illegalDcRule sym) (value := fun _ => Value.none) (scanning_refuse _ s) hphase h

theorem exec_decodeAcSymbol_keeps {sym : Byte} {s u : State} (hphase : s.status.phase = .busyDec)
    (h : exec (decodeAcSymbol sym) s = .next u) : Keeps s u := by
  unfold decodeAcSymbol at h
  split_ifs at h
  · exact .of_scanning (p := eobRule) (value := Value.bool) (.pure true) hphase h
  · rw [exec_zrl] at h
    exact .of_scanning (zrlRule_moves s) hphase h
  · rw [exec_acRunSize] at h
    exact .of_scanning (acRunSizeRule_moves _ _ s) hphase h

/-- The fetch of a Huffman symbol, or of the escape in front of it. -/
theorem fetchSymbol_keeps {s : State} {tc : TableClass} {th : Slot} {decodeSym : Byte → Instr}
    (hphase : s.status.phase = .busyDec)
    (hexec : ∀ sym t u, t.status.phase = .busyDec → exec (decodeSym sym) t = .next u → Keeps t u) :
    (if s.reader.atStuff then .run .stuff s
      else .ofResult ((do return decodeSym (← huffDecode tc th) : Proc Instr).run s) : Fetched).Keeps s := by
  split
  · exact ⟨.refl s, fun u h => exec_stuff_keeps hphase h⟩
  · refine Fetched.keeps_ofResult (.bind (huffDecode_moves tc th s) fun _ _ _ _ => .pure _) hphase fun i t hrun hrel u h => ?_
    obtain ⟨sym, v, -, hrun1⟩ := Proc.bind_eq_ok hrun
    cases hrun1
    exact hexec sym _ u (hrel.status ▸ hphase) h

theorem fetch_keeps (s : State) : (fetch s).Keeps s := by
  by_cases hphase : s.status.phase = .busyDec
  · cases hlevel : s.walk.level with
    | command => rw [fetch_command (.inr hlevel)]; exact fetchCommand_keeps s
    | marker =>
      rw [fetch_marker hphase hlevel]
      split
      · refine Fetched.keeps_ofResult (fetchMarker_moves s) hphase fun i t hrun hrel u h => ?_
        obtain ⟨m, rfl⟩ := fetchMarker_ok hrun
        exact exec_decodeMarkerCode_keeps (hrel.status ▸ hphase) (hrel.same_image ▸ ‹_›) h
      · exact fetchSoi_keeps hphase
    | mcu => rw [fetch_mcu hphase hlevel]; exact fetchMcu_keeps hphase
    | dc => rw [fetch_dc hphase hlevel]; exact fetchSymbol_keeps hphase fun _ _ _ => exec_decodeDcSymbol_keeps
    | ac => rw [fetch_ac hphase hlevel]; exact fetchSymbol_keeps hphase fun _ _ _ => exec_decodeAcSymbol_keeps
  · rw [fetch_command (.inl hphase)]
    exact fetchCommand_keeps s

/-- One step keeps every invariant. -/
theorem step_keeps {s t : State} (h : step s = .next t) : Keeps s t := step_keeps_of_fetch (fetch_keeps s) h

/-- Settles O56: every write to the plane goes through `Memory.write`, which keeps the canonical form. -/
theorem planeStaysCanonical : Obligations.PlaneStaysCanonical := fun _ _ hs h => (step_keeps h).plane hs

/-- Settles O57, by the ranges that every procedure of the reader, the writer and the block loops keeps. -/
theorem registersStayInRange : Obligations.RegistersStayInRange := fun _ _ hs h => (step_keeps h).registers hs

/-- Settles O58, by the checks each marker rule makes before it stores. -/
theorem imageStaysLegal : Obligations.ImageStaysLegal := fun _ _ hs h => (step_keeps h).image hs

/-- Settles O59: the status is written by a stop, by the begin and the end of a command, and by RESET. -/
theorem statusStaysConsistent : Obligations.StatusStaysConsistent := fun _ _ hs h => (step_keeps h).status hs

end Sys2Proof.Machine
end

section
/-! PROOFS of the bitstream unit: the reader laws (spec R131 to R133, R137). -/

namespace Sys2Proof.Machine

theorem destuff_cons_of_ne {b : Byte} (hb : b ≠ 0xFF) (rest : List Byte) : destuff (b :: rest) = b :: destuff rest := by
  cases rest with
  | nil => simpa [destuff] using hb
  | cons b' rest => rw [destuff, if_pos hb]

theorem destuff_stuffed_append (data rest : List Byte) : destuff (stuffed data ++ rest) = data ++ destuff rest := by
  induction data with
  | nil => rfl
  | cons b data ih =>
    by_cases hb : b = 0xFF
    · subst hb
      rw [stuffed_cons_ff, List.cons_append, List.cons_append, destuff, if_neg (not_not.mpr rfl), if_pos rfl, ih,
        List.cons_append]
    · rw [stuffed_cons_other hb, List.cons_append, destuff_cons_of_ne hb, ih, List.cons_append]

theorem destuff_stuffed (data : List Byte) : destuff (stuffed data) = data := by
  simpa [destuff] using destuff_stuffed_append data []

theorem Reader.drop_of_byte? {r : Reader} {p : Nat} {b : Byte} (h : r.byte? p = some b) :
    r.inp.drop p = b :: r.inp.drop (p + 1) := by
  obtain ⟨hlt, hget⟩ := List.getElem?_eq_some_iff.mp h
  rw [List.drop_eq_getElem_cons hlt, hget]

/-- No data byte stands at the cursor: the data end here (spec R131, R137). -/
theorem Reader.destuff_of_fetched_none {r : Reader} (h : r.fetched = none) : destuff (r.inp.drop r.rp) = [] := by
  unfold Reader.fetched at h
  split at h
  · rename_i hend
    rw [List.drop_eq_nil_of_le (List.getElem?_eq_none_iff.mp hend), destuff]
  · rename_i b next hb
    split_ifs at h with hdata hzero
    obtain rfl := not_not.mp hdata
    rw [Reader.drop_of_byte? hb]
    cases hrest : r.inp.drop (r.rp + 1) with
    | nil => simp [destuff]
    | cons b' rest =>
      have hnext : r.byte? (r.rp + 1) = some b' := by
        rw [Reader.byte?, ← Nat.add_zero (r.rp + 1), ← List.getElem?_drop, hrest]
        rfl
      have hb' : b' ≠ 0x00 := fun heq => hzero (heq ▸ hnext)
      rw [destuff, if_neg (not_not.mpr rfl), if_neg hb']

/-- The reader has gone from `r` to `r'` over the data bytes `data` and delivered `bits`. -/
structure Reader.Delivers (r r' : Reader) (data : List Byte) (bits : List Bool) : Prop where
  inp : r'.inp = r.inp
  rp : r'.rp = r.rp + (stuffed data).length
  drop : r.inp.drop r.rp = stuffed data ++ r'.inp.drop r'.rp
  bits : natToBits r.racc.toNat r.rcnt ++ bytesToBits data = bits ++ natToBits r'.racc.toNat r'.rcnt

theorem Reader.Delivers.refl (r : Reader) : r.Delivers r [] [] := ⟨rfl, rfl, rfl, by simp [bytesToBits]⟩

theorem Reader.Delivers.trans {r r1 r2 : Reader} {data1 data2 : List Byte} {bits1 bits2 : List Bool}
    (h1 : r.Delivers r1 data1 bits1) (h2 : r1.Delivers r2 data2 bits2) :
    r.Delivers r2 (data1 ++ data2) (bits1 ++ bits2) where
  inp := h2.inp.trans h1.inp
  rp := by rw [h2.rp, h1.rp, stuffed_append, List.length_append, Nat.add_assoc]
  drop := by rw [h1.drop, h2.drop, stuffed_append, List.append_assoc]
  bits := by rw [bytesToBits_append, ← List.append_assoc, h1.bits, List.append_assoc, h2.bits, List.append_assoc]

theorem Reader.delivers_of_fetched {r r' : Reader} (h : r.fetched = some r') (h0 : r.rcnt = 0) :
    r.Delivers r' [r'.racc] [] := by
  have hbits : ∀ b : Byte, natToBits r.racc.toNat r.rcnt ++ bytesToBits [b] = [] ++ natToBits b.toNat 8 := fun b => by
    simp [h0, bytesToBits, natToBits]
  unfold Reader.fetched at h
  split at h
  · cases h
  · rename_i b hb
    split_ifs at h with hdata hzero <;> cases h
    · have hone : stuffed [b] = [b] := by rw [stuffed_singleton, if_neg hdata]
      exact ⟨rfl, by rw [hone]; rfl, by rw [hone]; exact Reader.drop_of_byte? hb, hbits b⟩
    · obtain rfl := not_not.mp hdata
      refine ⟨rfl, rfl, ?_, hbits _⟩
      rw [Reader.drop_of_byte? hb, Reader.drop_of_byte? hzero]
      rfl

theorem Reader.delivers_of_unread {r : Reader} {n : Nat} (h : r.rcnt = n + 1) :
    r.Delivers { r with rcnt := n } [] [r.racc.getLsbD n] :=
  ⟨rfl, rfl, rfl, by rw [h, natToBits, BitVec.testBit_toNat]; simp [bytesToBits]⟩

theorem Reader.delivers_of_nextBit {r r' : Reader} {b : Bool} (h : r.nextBit = some (b, r')) :
    ∃ data, r.Delivers r' data [b] := by
  cases hcnt : r.rcnt with
  | succ n =>
    rw [Reader.nextBit_of_unread hcnt] at h
    cases h
    exact ⟨[], Reader.delivers_of_unread hcnt⟩
  | zero =>
    cases hf : r.fetched with
    | none => simp [Reader.nextBit, hcnt, hf] at h
    | some r1 =>
      obtain ⟨-, -, -, h8⟩ := Reader.fetched_cases hf
      rw [Reader.nextBit_of_fetched hcnt hf h8, Reader.nextBit_of_unread h8] at h
      cases h
      exact ⟨_, (Reader.delivers_of_fetched hf hcnt).trans (Reader.delivers_of_unread h8)⟩

theorem Reader.delivers_of_takeBits {n : Nat} : ∀ {r r' : Reader} {bits : List Bool}, r.takeBits n = some (bits, r') →
    ∃ data, r.Delivers r' data bits := by
  induction n with
  | zero =>
    intro r r' bits h
    cases h
    exact ⟨[], .refl r⟩
  | succ n ih =>
    intro r r' bits h
    obtain ⟨init, b, r1, htake, hnext, rfl⟩ := Reader.takeBits_succ_eq_some h
    obtain ⟨data1, h1⟩ := ih htake
    obtain ⟨data2, h2⟩ := Reader.delivers_of_nextBit hnext
    exact ⟨data1 ++ data2, h1.trans h2⟩

/-- The bits the reader has still to deliver. -/
def Reader.pending (r : Reader) : List Bool :=
  natToBits r.racc.toNat r.rcnt ++ bytesToBits (destuff (r.inp.drop r.rp))

theorem Reader.Delivers.pending_eq {r r' : Reader} {data : List Byte} {bits : List Bool} (h : r.Delivers r' data bits) :
    r.pending = bits ++ r'.pending := by
  rw [Reader.pending, h.drop, destuff_stuffed_append, bytesToBits_append, ← List.append_assoc, h.bits, List.append_assoc,
    Reader.pending]

theorem Reader.pending_of_nextBit_none {r : Reader} (h : r.nextBit = none) : r.pending = [] := by
  rw [Reader.nextBit, Option.map_eq_none_iff] at h
  split_ifs at h with hcnt
  rw [Reader.pending, hcnt, Reader.destuff_of_fetched_none h]
  rfl

/-- The reader has too few bits exactly when fewer are pending. -/
theorem Reader.length_pending_lt_of_takeBits_none {r : Reader} {n : Nat} (h : r.takeBits n = none) :
    r.pending.length < n := by
  obtain ⟨m, bits, r', hm, htake, hend⟩ := Reader.exists_takeBits_end h
  obtain ⟨data, hdelivers⟩ := Reader.delivers_of_takeBits htake
  have hnext : r'.nextBit = none := by
    simpa [Reader.takeBits_succ, htake] using hend
  rw [hdelivers.pending_eq, Reader.pending_of_nextBit_none hnext, List.append_nil, Reader.length_of_takeBits htake]
  exact hm

/-- From a byte boundary, what is fetched is as many bytes as the bits need. -/
theorem Reader.Delivers.counts {r r' : Reader} {data : List Byte} {bits : List Bool} (h : r.Delivers r' data bits)
    (h0 : r.rcnt = 0) (h8 : r'.rcnt < 8) :
    r'.rcnt = (8 - bits.length % 8) % 8 ∧ data.length = (bits.length + 7) / 8 ∧
      destuff ((r.inp.drop r.rp).take (r'.rp - r.rp)) = data := by
  have hlen := congrArg List.length h.bits
  rw [List.length_append, List.length_append, length_natToBits, length_natToBits, length_bytesToBits, h0] at hlen
  refine ⟨by omega, by omega, ?_⟩
  rw [h.rp, Nat.add_sub_cancel_left, h.drop, List.take_left, destuff_stuffed]

/-- What any number of bits leaves of the reader. -/
theorem Reader.takeBits_cases {n : Nat} : ∀ {r r' : Reader} {bits : List Bool}, r.takeBits n = some (bits, r') →
    r'.inp = r.inp ∧ r.rp ≤ r'.rp ∧ (r.rp ≤ r.inlen → r'.rp ≤ r.inlen) ∧ (r.rcnt ≤ 8 → 0 < n → r'.rcnt < 8) ∧
      (n ≤ r.rcnt → r'.rp = r.rp ∧ r'.rcnt = r.rcnt - n) := by
  induction n with
  | zero =>
    intro r r' bits h
    cases h
    exact ⟨rfl, le_rfl, id, fun _ h => absurd h (lt_irrefl 0), fun _ => ⟨rfl, rfl⟩⟩
  | succ n ih =>
    intro r r' bits h
    obtain ⟨init, b, r1, htake, hnext, -⟩ := Reader.takeBits_succ_eq_some h
    obtain ⟨hinp, hle, hin, hcnt, hunread⟩ := ih htake
    obtain ⟨hinp', hle', hin', hcnt', hunread'⟩ := Reader.nextBit_cases hnext
    have hlen : r1.inlen = r.inlen := congrArg List.length hinp
    refine ⟨hinp'.trans hinp, hle.trans hle', fun h => hlen ▸ hin' (hlen ▸ hin h), fun h8 _ => hcnt' ?_, fun hn => ?_⟩
    · rcases n.eq_zero_or_pos with rfl | hpos
      · cases htake
        exact h8
      · exact (hcnt h8 hpos).le
    · obtain ⟨hrp, hcnt1⟩ := hunread (by omega)
      obtain ⟨hrp', hcnt2⟩ := hunread' (by omega)
      exact ⟨hrp'.trans hrp, by omega⟩

/-- Any successful `read_bits` is so many calls of `read_bit`. -/
theorem readBitsFrom_ok {s t : State} {v n w : Nat} (h : (readBitsFrom v n).run s = .ok w t) :
    ∃ bits r, s.reader.takeBits n = some (bits, r) ∧ t = { s with reader := r } := by
  obtain ⟨hsome, hnone⟩ := readBitsFrom_run n v s
  cases htake : s.reader.takeBits n with
  | none =>
    obtain ⟨s', hrun, -⟩ := hnone htake
    rw [hrun] at h
    cases h
  | some taken =>
    rw [hsome taken.1 taken.2 htake] at h
    cases h
    exact ⟨taken.1, taken.2, rfl, rfl⟩

/-- Whatever stops it or not, a procedure that keeps the scan's rules keeps the buffer and only moves the cursor on. -/
theorem cursor_of_scanning {α : Type} {value : α → Value} {p : Proc α} {s t : State} (hp : p.Moves scanning s)
    (h : runProc value p s = .next t) :
    t.reader.inp = s.reader.inp ∧ s.reader.rp ≤ t.reader.rp ∧
      (s.reader.rp ≤ s.reader.inlen → t.reader.rp ≤ t.reader.inlen) := by
  obtain ⟨a, u, hrun, rfl⟩ | ⟨e, u, hrun, rfl⟩ := runProc_cases h
  · have hrel := hp.ok a u hrun
    exact ⟨hrel.inp, hrel.rp_le, hrel.rp_in⟩
  · obtain ⟨hrel, -⟩ := hp.error e u hrun
    cases e <;> exact ⟨hrel.inp, hrel.rp_le, hrel.rp_in⟩

/-- Settles O33: the reader delivers `Reader.pending`, bit after bit. -/
theorem readerDeliversTheDestuffedBytes : Obligations.ReaderDeliversTheDestuffedBytes := by
  refine ⟨fun s n h0 => ?_, fun s t v n w h => ?_, fun s t n i hi h => ?_, fun s t h hpos => ?_⟩
  · have hpending : s.reader.pending = bytesToBits (destuff (s.reader.inp.drop s.reader.rp)) := by
      rw [Reader.pending, h0]
      rfl
    dsimp only
    rw [← hpending]
    cases htake : s.reader.takeBits n with
    | none =>
      have hlt := Reader.length_pending_lt_of_takeBits_none htake
      refine ⟨fun hle => absurd hlt (Nat.not_lt.mpr hle), fun _ => ⟨?_, fun hn => ?_⟩⟩
      · obtain ⟨s', hrun, -⟩ := (readBitsFrom_run n 0 s).2 htake
        exact ⟨_, s', hrun⟩
      · obtain ⟨s', hrun, -⟩ := (readBits_run n s hn).2 htake
        rw [exec_readBits]
        exact runProc_raised _ hrun
    | some taken =>
      obtain ⟨bits, r⟩ := taken
      obtain ⟨data, hdelivers⟩ := Reader.delivers_of_takeBits htake
      obtain ⟨hinp, hle, -, hcnt, -⟩ := Reader.takeBits_cases htake
      have hlen := Reader.length_of_takeBits htake
      have h8 : r.rcnt < 8 := by
        rcases n.eq_zero_or_pos with rfl | hpos
        · cases htake
          omega
        · exact hcnt (by omega) hpos
      obtain ⟨hrcnt, hdata, htaken⟩ := hdelivers.counts h0 h8
      have hbits : s.reader.pending.take n = bits := by
        rw [hdelivers.pending_eq, ← hlen, List.take_left]
      rw [hbits]
      refine ⟨fun _ => ⟨r, (readBitsFrom_run n 0 s).1 bits r htake, hinp, hle, hlen ▸ hrcnt, ?_, fun hn => ?_⟩, fun hlt => ?_⟩
      · rw [htaken, hdata, hlen]
      · rw [exec_readBits, runProc_ok _ ((readBits_run n s hn).1 bits r htake)]
      · rw [hdelivers.pending_eq, List.length_append] at hlt
        omega
  · obtain ⟨bits, r, htake, rfl⟩ := readBitsFrom_ok h
    obtain ⟨hinp, hle, hin, hcnt, hunread⟩ := Reader.takeBits_cases htake
    exact ⟨hinp, hle, fun h => by simpa [Reader.inlen, hinp] using hin h, hcnt, fun hn => (hunread hn).1⟩
  · simp only [List.mem_cons, List.not_mem_nil, or_false] at hi
    rcases hi with rfl | rfl | rfl | rfl | rfl | rfl
    · rw [exec_fetchByte] at h
      exact cursor_of_scanning (fetchByte_moves s) h
    · rw [exec_readBit] at h
      exact cursor_of_scanning (readBit_moves s) h
    · rw [exec_readBits] at h
      exact cursor_of_scanning (readBits_moves n s) h
    · rw [exec_peekMarker] at h
      cases h
      exact ⟨rfl, le_rfl, id⟩
    · rw [exec_alignToByte] at h
      exact cursor_of_scanning (alignToByte_moves s) h
    · rw [exec_readMarker] at h
      exact cursor_of_scanning (readMarker_moves s) h
  · rw [exec_readBit] at h
    have hrun := readBit_run s
    cases hnext : s.reader.nextBit with
    | none =>
      simp [Reader.nextBit, hpos.ne'] at hnext
    | some next =>
      rw [hnext] at hrun
      rw [runProc_ok _ hrun] at h
      cases h
      exact ((Reader.nextBit_cases hnext).2.2.2.2 hpos).1

end Sys2Proof.Machine
end

section
/-! PROOFS of the decoder: the walk, marker after marker (spec R180 to R182, R184 to R186, R194). -/

namespace Sys2Proof.Machine

theorem exec_walk (s : State) : exec .walk s = runUnit walk s := by rfl

theorem exec_checkSoi_run (s : State) : exec .checkSoi s = runUnit checkSoi s := by rfl

/-! `read_marker`, however it ends. -/

/-- `read_marker` looks at the reader only; where it fails it leaves the state as it is (spec R136). -/
theorem readMarker_run_error {s s' t : State} {e : Stop} (hreader : s'.reader = s.reader) (h : readMarker.run s = .error e t) :
    readMarker.run s' = .error e s' := by
  rw [readMarker, Proc.get_bind_run] at h ⊢
  dsimp only at h ⊢
  rw [hreader]
  split at h
  · cases h
    rfl
  · split_ifs at h ⊢ with hff
    · cases h
      rfl
    · split at h
      · cases h
        rfl
      · split_ifs at h ⊢ with hzero
        · cases h
          rfl
        · cases h

/-- A marker takes at least two bytes of the buffer (spec R81, R136). -/
theorem readMarker_progress {s t : State} {m : Byte} (h : readMarker.run s = .ok m t) :
    t.reader.inp = s.reader.inp ∧ s.reader.rp + 2 ≤ t.reader.rp ∧ t.reader.rp ≤ s.reader.inlen := by
  rw [readMarker, Proc.get_bind_run] at h
  dsimp only at h
  split at h
  · cases h
  · split_ifs at h with hff
    · cases h
    split at h
    · cases h
    · rename_i hbyte
      split_ifs at h with hzero
      · cases h
      cases h
      have hskip : s.reader.rp + 1 ≤ s.reader.skipFill (s.reader.rp + 1) := Nat.le_add_right _ _
      exact ⟨rfl, Nat.succ_le_succ hskip, Reader.byte?_lt hbyte⟩

/-- One turn of the walk moves the cursor on, within the buffer it began with. -/
theorem walkOnce_progress {s t : State} {u : Unit} (h : walkOnce.run s = .ok u t) :
    t.reader.inp = s.reader.inp ∧ s.reader.rp < t.reader.rp ∧ s.reader.rp < s.reader.inlen := by
  obtain ⟨_, s1, hset, hrest⟩ := Proc.bind_eq_ok h
  cases hset
  obtain ⟨m, s2, hread, hrule⟩ := Proc.bind_eq_ok hrest
  obtain ⟨hinp, hrp, hin⟩ := readMarker_progress hread
  have hkept := (markerRule_moves _ s2).ok _ _ hrule
  have hle := hkept.rp_le
  dsimp only [Reader.inlen] at hinp hrp hin ⊢
  exact ⟨hkept.inp.trans hinp, by omega, by omega⟩

/-- The fuel of the walk: any number of turns above the bytes left gives the same run (spec R331). -/
theorem walkFrom_run_fuel (n : Nat) : ∀ (m : Nat) (s : State), s.reader.inlen - s.reader.rp < n →
    s.reader.inlen - s.reader.rp < m → (walkFrom n).run s = (walkFrom m).run s := by
  induction n with
  | zero => exact fun m s h _ => absurd h (Nat.not_lt_zero _)
  | succ n ih =>
    intro m s hn hm
    obtain ⟨m, rfl⟩ := Nat.exists_eq_succ_of_ne_zero (Nat.ne_zero_of_lt hm)
    rw [walkFrom, walkFrom, Proc.bind_run, Proc.bind_run]
    cases h : walkOnce.run s with
    | error e t => rfl
    | ok _ t =>
      obtain ⟨hinp, hrp, hin⟩ := walkOnce_progress h
      have hlen : t.reader.inlen = s.reader.inlen := congrArg List.length hinp
      dsimp only
      rw [Proc.get_bind_run, Proc.get_bind_run]
      split
      · rfl
      · exact ih m t (by omega) (by omega)

/-- Where a turn of the walk ends ok, the walk ends after EOI and else goes on (spec R182). -/
theorem walk_run_of_ok {s t : State} {u : Unit} (h : walkOnce.run s = .ok u t) :
    walk.run s = if t.image.fEoi = true then .ok () t else walk.run t := by
  obtain ⟨hinp, hrp, hin⟩ := walkOnce_progress h
  have hlen : t.reader.inlen = s.reader.inlen := congrArg List.length hinp
  rw [walk, Proc.get_bind_run, Proc.get_bind_run, walkFrom, Proc.bind_run_ok h, Proc.get_bind_run]
  split
  · rfl
  · exact walkFrom_run_fuel _ _ t (by omega) (by omega)

theorem walk_run_of_error {s t : State} {e : Stop} (h : walkOnce.run s = .error e t) : walk.run s = .error e t := by
  rw [walk, Proc.get_bind_run, walkFrom, Proc.bind_run_error h]

/-- A turn of the walk is the marker's rule, the marker read (spec R182). -/
theorem walkOnce_run_of_holds {s : State} {fills : Nat} {m : Byte}
    (h : s.reader.holds (List.replicate (fills + 1) 0xFF ++ [m]) = true) (hff : m ≠ 0xFF) (hzero : m ≠ 0x00) :
    walkOnce.run s = (markerRule (decodeMarkerCode m)).run (s.atMarker fills) :=
  Proc.bind_run_ok (f := fun m => markerRule (decodeMarkerCode m)) (setMpos_readMarker_run h hff hzero)

/-- Every code byte but those of fill runs the rule of the walk. -/
theorem exec_decodeMarkerCode_of_ne {m : Byte} (hff : m ≠ 0xFF) (s : State) :
    exec (decodeMarkerCode m) s = runUnit (markerRule (decodeMarkerCode m)) s := by
  have hrows : markerRows = markerRows.dropLast ++ [⟨0xFF, 0xFF, fun _ => .fill⟩] := rfl
  unfold decodeMarkerCode
  split
  · rename_i row hfind
    have hmem := List.mem_of_find?_eq_some hfind
    have hmatch := List.find?_some hfind
    rw [hrows, List.mem_append, List.mem_singleton] at hmem
    rcases hmem with hmem | rfl
    · exact exec_markerRows row hmem m s
    · refine absurd ?_ hff
      have hall : ∀ x : Byte, (x &&& 0xFF == 0xFF) = true → x = 0xFF := by decide
      exact hall m hmatch
  · rfl

/-! Captured segments. -/

theorem capturedMarker_cases {m : Byte} (h : capturedMarker m = true) :
    (∃ n : BitVec 4, m = 0xE0 + n.zeroExtend 8) ∨ (∃ n : BitVec 3, m = 0xF0 + n.zeroExtend 8) ∨
      (∃ n : BitVec 2, m = 0xF8 + n.zeroExtend 8) ∨ (∃ n : BitVec 1, m = 0xFC + n.zeroExtend 8) ∨
      m = 0xFE ∨ m = 0xDC ∨ m = 0xDE ∨ m = 0xDF := by
  have hall : ∀ x : Byte, capturedMarker x = true →
      x = 0xE0 + (x.extractLsb' 0 4).zeroExtend 8 ∨ x = 0xF0 + (x.extractLsb' 0 3).zeroExtend 8 ∨
      x = 0xF8 + (x.extractLsb' 0 2).zeroExtend 8 ∨ x = 0xFC + (x.extractLsb' 0 1).zeroExtend 8 ∨
      x = 0xFE ∨ x = 0xDC ∨ x = 0xDE ∨ x = 0xDF := by decide
  rcases hall m h with h | h | h | h | h
  · exact .inl ⟨_, h⟩
  · exact .inr (.inl ⟨_, h⟩)
  · exact .inr (.inr (.inl ⟨_, h⟩))
  · exact .inr (.inr (.inr (.inl ⟨_, h⟩)))
  · exact .inr (.inr (.inr (.inr h)))

/-- The rows that capture (spec R184 to R186). -/
theorem markerRule_captured {m : Byte} (h : capturedMarker m = true) : markerRule (decodeMarkerCode m) = capture m := by
  obtain ⟨n, rfl⟩ | ⟨n, rfl⟩ | ⟨n, rfl⟩ | ⟨n, rfl⟩ | rfl | rfl | rfl | rfl := capturedMarker_cases h
  · rw [decodeMarkerCode_app]
    rfl
  · rw [decodeMarkerCode_jpgLow]
    rfl
  · rw [decodeMarkerCode_jpgMid]
    rfl
  · rw [decodeMarkerCode_jpgHigh]
    rfl
  all_goals rfl

theorem capturedMarker_ne {m : Byte} (h : capturedMarker m = true) : m ≠ 0xFF ∧ m ≠ 0x00 := by
  constructor <;> rintro rfl <;> exact absurd h (by decide)

/-- The state behind a marker without fill bytes and its segment. -/
def State.pastMarkerSegment (s : State) (payload : List Byte) : State := (s.atMarker 0).pastSegment payload

theorem Reader.holds_append_iff (r : Reader) (bytes more : List Byte) :
    r.holds (bytes ++ more) = true ↔
      r.holds bytes = true ∧ ({ r with rp := r.rp + bytes.length } : Reader).holds more = true := by
  simp only [Reader.holds_iff]
  constructor
  · rintro ⟨rest, h⟩
    refine ⟨⟨more ++ rest, by rw [h, List.append_assoc]⟩, rest, ?_⟩
    rw [← List.drop_drop, h, List.append_assoc, List.drop_left]
  · rintro ⟨⟨rest, h⟩, rest', h'⟩
    rw [← List.drop_drop, h, List.drop_left] at h'
    exact ⟨rest', by rw [h, h', List.append_assoc]⟩

/-- What the reader holds depends on the buffer and the cursor only. -/
theorem Reader.holds_congr {r r' : Reader} (hinp : r'.inp = r.inp) (hrp : r'.rp = r.rp) (bytes : List Byte) :
    r'.holds bytes = r.holds bytes := by rw [Reader.holds, Reader.holds, hinp, hrp]

/-- A segment in the stream: its marker, then its length and payload (spec R83). -/
theorem holds_segmentBytes {s : State} {m : Byte} {payload more : List Byte}
    (h : s.reader.holds (segmentBytes m payload ++ more) = true) (hlen : payload.length ≤ 65533) :
    s.reader.holds [0xFF, m] = true ∧ (s.atMarker 0).reader.holdsSegment payload = true ∧
      (s.pastMarkerSegment payload).reader.holds more = true := by
  rw [segmentBytes, List.append_assoc, List.append_assoc, Reader.holds_append_iff] at h
  obtain ⟨hmarker, hrest⟩ := h
  rw [← List.append_assoc, Reader.holds_append_iff] at hrest
  obtain ⟨hsegment, hmore⟩ := hrest
  have hbytes : (natBytes16 (payload.length + 2) ++ payload).length = payload.length + 2 := by
    rw [List.length_append, Nat.add_comm]
    rfl
  refine ⟨hmarker, ?_, ?_⟩
  · rw [Reader.holdsSegment, Bool.and_eq_true, decide_eq_true_eq]
    exact ⟨hlen, (Reader.holds_congr (by rfl) (by rfl) _).trans hsegment⟩
  · rw [hbytes] at hmore
    exact (Reader.holds_congr (by rfl) (by rfl) _).trans hmore

/-- One captured segment in the walk. -/
theorem walkOnce_run_captured {s : State} {rec : SegRecord} {more : List Byte} (hrec : rec.ok = true)
    (h : s.reader.holds (segmentBytes rec.marker rec.payload ++ more) = true) :
    walkOnce.run s = .ok ()
      { s.pastMarkerSegment rec.payload with image := { s.image with seg := s.image.seg ++ [rec] } } := by
  rw [SegRecord.ok, Bool.and_eq_true, decide_eq_true_eq] at hrec
  obtain ⟨hmarker, hlen⟩ := hrec
  obtain ⟨hff, hzero⟩ := capturedMarker_ne hmarker
  obtain ⟨hpair, hsegment, -⟩ := holds_segmentBytes h hlen
  rw [walkOnce_run_of_holds (fills := 0) hpair hff hzero, markerRule_captured hmarker, capture_run,
    readSegment_run_of_holdsSegment hsegment]
  rfl

/-- EOI in the walk. -/
theorem walkOnce_run_eoi {s : State} (hscans : s.image.scans ≠ []) (h : s.reader.holds [0xFF, 0xD9] = true) :
    walkOnce.run s = .ok () { s.atMarker 0 with image := { s.image with fEoi := true } } := by
  have hrule : markerRule (decodeMarkerCode 0xD9) = eoiRule := rfl
  rw [walkOnce_run_of_holds (fills := 0) h (by decide) (by decide), hrule, eoiRule_run]
  exact if_neg hscans

/-- The bytes of captured segments. -/
def recordBytes (records : List SegRecord) : List Byte := records.flatMap fun r => segmentBytes r.marker r.payload

theorem length_segmentBytes (m : Byte) (payload : List Byte) : (segmentBytes m payload).length = payload.length + 4 := by
  simp [segmentBytes, natBytes16, be16Bytes]

/-- The walk over captured segments goes on behind them, the records kept. -/
theorem walk_run_captured {more : List Byte} (records : List SegRecord) : ∀ s : State, s.image.fEoi = false →
    (∀ r ∈ records, r.ok = true) → s.reader.holds (recordBytes records ++ more) = true →
    ∃ t : State, walk.run s = walk.run t ∧ t.reader.holds more = true ∧
      t.image = { s.image with seg := s.image.seg ++ records } ∧
      t.reader.rp = s.reader.rp + (recordBytes records).length ∧ t.reader.inp = s.reader.inp ∧ t.work = s.work ∧
      t.writer = s.writer ∧ t.status = s.status ∧ t.agent = s.agent ∧ t.port = s.port := by
  induction records with
  | nil =>
    intro s _ _ h
    refine ⟨s, rfl, h, ?_, rfl, rfl, rfl, rfl, rfl, rfl, rfl⟩
    rw [List.append_nil]
  | cons r records ih =>
    intro s heoi hok h
    have hr := hok r List.mem_cons_self
    have hheld : s.reader.holds (segmentBytes r.marker r.payload ++ (recordBytes records ++ more)) = true := by
      rwa [← List.append_assoc]
    have hlen : r.payload.length ≤ 65533 := by
      rw [SegRecord.ok, Bool.and_eq_true, decide_eq_true_eq] at hr
      exact hr.2
    have honce := walkOnce_run_captured hr hheld
    obtain ⟨-, -, hmore⟩ := holds_segmentBytes hheld hlen
    obtain ⟨t, hwalk, hholds, himage, hrp, hrest⟩ := ih
      { s.pastMarkerSegment r.payload with image := { s.image with seg := s.image.seg ++ [r] } } heoi
      (fun r' hr' => hok r' (List.mem_cons_of_mem r hr')) hmore
    refine ⟨t, ?_, hholds, ?_, ?_, hrest⟩
    · rw [walk_run_of_ok honce, if_neg (by rw [heoi]; decide), hwalk]
    · rw [himage, List.append_assoc, List.singleton_append]
    · rw [hrp]
      show s.reader.rp + 0 + 2 + (r.payload.length + 2) + (recordBytes records).length = _
      rw [recordBytes, recordBytes, List.flatMap_cons, List.length_append, length_segmentBytes]
      omega

/-- `check_soi` at the start of a decode (spec R181). -/
theorem checkSoi_run_begun (s : State) (rest : List Byte) :
    checkSoi.run (s.begun (0xFF :: 0xD8 :: rest)) = .ok () { s.begun (0xFF :: 0xD8 :: rest) with
      reader := { (s.begun (0xFF :: 0xD8 :: rest)).reader with rp := 2 }
      image := { (s.begun (0xFF :: 0xD8 :: rest)).image with fSoi := true } } := by
  have hlen : ¬ (s.begun (0xFF :: 0xD8 :: rest)).reader.inlen < 2 := by
    simp [State.begun, Reader.inlen]
  rw [checkSoi_run, if_neg hlen, if_pos ((Reader.byte?_zero_one_iff _ _ _).mpr ⟨rest, rfl⟩)]

/-! The obligation. -/

/-- A turn of the walk whose rule stops: as an instruction run alone. -/
theorem exec_walk_of_rule {s t : State} {fills : Nat} {m : Byte} (hzero : m ≠ 0x00) (hff : m ≠ 0xFF)
    (hholds : s.reader.holds (List.replicate (fills + 1) 0xFF ++ [m]) = true)
    (hexec : exec (decodeMarkerCode m) (s.atMarker fills) = .next t) :
    (t.status.phase ≠ s.status.phase → exec .walk s = .next t) ∧
    (t.status.phase = s.status.phase → s.status.phase ≠ .failed → s.status.phase ≠ .refused →
      (t.image.fEoi = true → exec .walk s = .next t) ∧
      (t.image.fEoi = false →
        exec .walk s = exec .walk { t with port := { t.port with result := s.port.result } })) := by
  have honce := walkOnce_run_of_holds hholds hff hzero
  rw [exec_decodeMarkerCode_of_ne hff] at hexec
  obtain ⟨_, u, hrun, rfl⟩ | ⟨e, u, hrun, rfl⟩ := runProc_cases hexec
  · have hkept := (markerRule_moves _ _).ok _ _ hrun
    rw [hrun] at honce
    refine ⟨fun hphase => absurd (congrArg Status.phase hkept.status) hphase, fun _ _ _ => ⟨fun heoi => ?_, fun heoi => ?_⟩⟩
    · rw [exec_walk]
      exact runUnit_ok ((walk_run_of_ok honce).trans (if_pos heoi))
    · have hresult : { u.returning .none with
          port := { (u.returning .none).port with result := s.port.result } } = u := by
        rw [show s.port.result = u.port.result from hkept.result.symm]
        rfl
      rw [hresult, exec_walk, exec_walk, runUnit, runProc, runUnit, runProc, walk_run_of_ok honce, if_neg]
      exact fun h => absurd (h.symm.trans heoi) (by decide)
  · rw [hrun] at honce
    have hwalk : exec .walk s = .next (takeStop e u) := by
      rw [exec_walk]
      exact runUnit_error (walk_run_of_error honce)
    refine ⟨fun _ => hwalk, fun hphase hfailed hrefused => ?_⟩
    exact absurd hphase (takeStop_phase_ne e u s.status.phase hfailed hrefused)

/-- Settles O27, by the turns of the walk. -/
theorem walkEndsAtEoi : Obligations.WalkEndsAtEoi := by
  refine ⟨fun s records hscans heoi hok h => ?_, fun s t kind hphase h hkind => ?_,
    fun s t fills m hzero hff hholds hexec => exec_walk_of_rule hzero hff hholds hexec, fun s buf hphase => ⟨?_, ?_⟩⟩
  · obtain ⟨t, hwalk, hholds, himage, hrp, hinp, hwork, hwriter, hstatus, hagent, -⟩ := walk_run_captured records s heoi hok h
    have honce := walkOnce_run_eoi (s := t) (by rw [himage]; exact hscans) hholds
    refine ⟨({ t.atMarker 0 with image := { t.image with fEoi := true } } : State).returning .none, ?_, ?_, ?_, hinp, hwork,
      hwriter, hstatus, hagent⟩
    · rw [exec_walk]
      exact runUnit_ok (hwalk.trans ((walk_run_of_ok honce).trans (if_pos rfl)))
    · show ({ t.image with fEoi := true } : Image) = _
      rw [himage]
    · show t.reader.rp + 0 + 2 = _
      rw [hrp]
      rfl
  · rw [exec_readMarker] at h
    obtain ⟨m, u, hrun, rfl⟩ | ⟨e, u, hrun, rfl⟩ := runProc_cases h
    · have hstatus := ((readMarker_moves s).ok m u hrun).status
      exact absurd (hstatus ▸ hkind.1) hphase
    · obtain ⟨hrel, hown⟩ := (readMarker_moves s).error e u hrun
      have honce : walkOnce.run s = .error e
          { s with walk := { s.walk with mpos := s.reader.rp - s.walk.fills, fills := 0 } } :=
        Proc.bind_run_error (p := readMarker) (readMarker_run_error (s := s) rfl hrun)
      cases e with
      | refused reason => exact absurd hkind.1 nofun
      | raised kind' pos =>
        obtain rfl : kind' = kind := hkind.2
        rw [exec_walk]
        exact runUnit_raised (walk_run_of_error honce)
  · intro t h ht
    rw [exec_checkSoi_run] at h
    obtain ⟨_, u, hrun, rfl⟩ | ⟨e, u, hrun, rfl⟩ := runProc_cases h
    · obtain ⟨-, rfl⟩ := checkSoi_ok hrun
      exact absurd rfl ht
    · rw [exec_decode]
      exact runUnit_error ((decodeCommandProc_run hphase buf).trans (Proc.bind_run_error hrun))
  · intro t rest hbuf h
    subst hbuf
    have hsoi := checkSoi_run_begun s rest
    rw [exec_walk] at h
    rw [exec_decode]
    have hdecode := (decodeCommandProc_run hphase _).trans (Proc.bind_run_ok hsoi)
    obtain ⟨_, u, hrun, rfl⟩ | ⟨e, u, hrun, rfl⟩ := runProc_cases h
    · have hstatus := ((walk_moves _).ok _ _ hrun).status
      refine ⟨fun hne => absurd (congrArg Status.phase hstatus) hne, fun _ => ?_⟩
      exact runUnit_ok (hdecode.trans (Proc.bind_run_ok hrun))
    · exact ⟨fun _ => runUnit_error (hdecode.trans (Proc.bind_run_error hrun)),
        fun hphase' => absurd hphase' (takeStop_phase_ne e u .busyDec (by decide) (by decide))⟩

end Sys2Proof.Machine
end

section
/-! PROOFS of the decoder: what the segments DQT, DHT, SOF0 and SOS carry (spec R85 to R89, R187 to R189, R193). -/

namespace Sys2Proof.Machine

theorem exec_dqt (s : State) : exec .dqt s = runUnit dqtRule s := by rfl
theorem exec_dht (s : State) : exec .dht s = runUnit dhtRule s := by rfl
theorem exec_sof0 (s : State) : exec .sof0 s = runUnit sof0Rule s := by rfl
theorem exec_sos (s : State) : exec .sos s = runUnit sosRule s := by rfl

/-! Slots in nibbles and bytes. -/

theorem slotOf_slotNibble (t : Slot) : slotOf (slotNibble t).toNat = some t := by
  revert t
  decide

theorem slotOf_slotByte (t : Slot) : slotOf (slotByte t).toNat = some t := by
  revert t
  decide

theorem slotOf_eq_none {n : Nat} (h : 4 ≤ n) : slotOf n = none := dif_neg (Nat.not_lt.mpr h)

theorem slotOf_eq_some {n : Nat} (h : n < 4) : slotOf n = some ⟨n, h⟩ := dif_pos h

/-! DQT. -/

theorem dqtRule_run {s : State} {payload : List Byte} (h : s.reader.holdsSegment payload = true) :
    dqtRule.run s =
      (if payload.length = 0 then badLength else dqtTables payload.length payload : Proc Unit).run (s.pastSegment payload) :=
  Proc.bind_run_ok (readSegment_run_of_holdsSegment h)

/-- The entries of a quantisation table as its segment carries them (spec R85). -/
def quantEntryBytes (slot : QuantSlot) (e : Half) : List Byte :=
  if slot.pq = 0 then [e.truncate 8] else be16Bytes e

theorem dqtPayload_eq (tq : Slot) (slot : QuantSlot) :
    dqtPayload tq slot =
      nibbles (slot.pq.zeroExtend 4) (slotNibble tq) :: slot.q.toList.flatMap (quantEntryBytes slot) := rfl

theorem length_flatMap_const {α β : Type} {f : α → List β} {k : Nat} (hf : ∀ a, (f a).length = k) (xs : List α) :
    (xs.flatMap f).length = k * xs.length := by
  simp [List.length_flatMap, hf, Nat.mul_comm]

/-- The `i`-th group of `k` bytes of a list of groups. -/
theorem getD_flatMap_const {α β : Type} {f : α → List β} {k : Nat} (hf : ∀ a, (f a).length = k) (d : β) :
    ∀ (xs : List α) (rest : List β) (i j : Nat) (hi : i < xs.length), j < k →
      (xs.flatMap f ++ rest).getD (k * i + j) d = (f xs[i]).getD j d := by
  intro xs
  induction xs with
  | nil => exact fun rest i j hi _ => absurd hi (Nat.not_lt_zero i)
  | cons x xs ih =>
    intro rest i j hi hj
    rw [List.flatMap_cons, List.append_assoc]
    cases i with
    | zero =>
      rw [Nat.mul_zero, Nat.zero_add, List.getD_append _ _ _ _ (by rw [hf]; exact hj)]
      rfl
    | succ i =>
      have hindex : k * (i + 1) + j = (f x).length + (k * i + j) := by rw [hf, Nat.mul_succ]; omega
      rw [hindex, List.getD_append_right _ _ _ _ (Nat.le_add_right _ _), Nat.add_sub_cancel_left,
        ih rest i j (Nat.lt_of_succ_lt_succ hi) hj]
      rfl

/-- The width of an entry, by the precision (spec R85). -/
theorem length_quantEntryBytes (slot : QuantSlot) (e : Half) : (quantEntryBytes slot e).length = slot.pq.toNat + 1 := by
  have hcases : slot.pq = 0 ∨ slot.pq = 1 := by
    have : ∀ p : BitVec 1, p = 0 ∨ p = 1 := by decide
    exact this slot.pq
  rcases hcases with h | h <;> simp [quantEntryBytes, h, be16Bytes]

/-- The entries read back (spec R85, R187). -/
theorem quantEntries_flatMap {slot : QuantSlot} (hvalid : slot.valid = true) (hok : slot.ok = true) (rest : List Byte) :
    quantEntries (slot.pq.zeroExtend 4) (slot.q.toList.flatMap (quantEntryBytes slot) ++ rest) = slot.q := by
  have hcases : ∀ p : BitVec 1, p = 0 ∨ p = 1 := by decide
  ext i hi : 1
  rw [quantEntries, Vector.getElem_ofFn]
  have hlen : i < slot.q.toList.length := by simpa using hi
  rcases hcases slot.pq with hpq | hpq
  · have hsmall : slot.q[i].toNat < 256 := by
      rw [QuantSlot.ok, hvalid, hpq] at hok
      have hall : ∀ (i : Nat) (hi : i < 64), slot.q[i].toNat < 256 := by simpa using hok
      exact hall i hi
    have hbyte := getD_flatMap_const (fun e => (length_quantEntryBytes slot e).trans (by rw [hpq]; rfl)) (0 : Byte)
      slot.q.toList rest i 0 hlen Nat.one_pos
    rw [Nat.one_mul, Nat.add_zero] at hbyte
    rw [if_pos (by rw [hpq]; rfl), hbyte]
    apply BitVec.eq_of_toNat_eq
    have hlarge : slot.q[i].toNat < 65536 := by omega
    simp [quantEntryBytes, hpq, Nat.mod_eq_of_lt hsmall, hlarge]
  · have hpair := fun j hj => getD_flatMap_const (k := 2)
      (fun e => (length_quantEntryBytes slot e).trans (by rw [hpq]; rfl)) (0 : Byte) slot.q.toList rest i j hlen hj
    have h0 := hpair 0 (by decide)
    have h1 := hpair 1 (by decide)
    rw [Nat.add_zero] at h0
    rw [if_neg (by rw [hpq]; decide), h0, h1]
    simp [quantEntryBytes, hpq, be16Bytes, be16_extract]

/-- One table of a DQT segment is stored in its slot (spec R187). -/
theorem dqtTables_run_cons {tq : Slot} {slot : QuantSlot} (hvalid : slot.valid = true) (hok : slot.ok = true) (n : Nat)
    (rest : List Byte) (s : State) :
    (dqtTables (n + 1) (dqtPayload tq slot ++ rest)).run s =
      (dqtTables n rest).run { s with image := s.image.setQt tq slot } := by
  have hpq : ∀ p : BitVec 1, (p.zeroExtend 4).toNat = p.toNat ∧ ¬ 1 < p.toNat ∧ (p.zeroExtend 4).truncate 1 = p := by decide
  obtain ⟨hnat, hle, htrunc⟩ := hpq slot.pq
  have hwidth : (slot.q.toList.flatMap (quantEntryBytes slot)).length = 64 * (slot.pq.toNat + 1) := by
    rw [length_flatMap_const (length_quantEntryBytes slot), Vector.length_toList, Nat.mul_comm]
  rw [dqtPayload_eq, List.cons_append, dqtTables]
  simp only [hiNibble_nibbles, loNibble_nibbles, slotOf_slotNibble, hnat]
  rw [if_neg hle, if_neg (by rw [List.length_append, hwidth]; omega), quantEntries_flatMap hvalid hok, htrunc, ← hwidth,
    List.drop_left]
  have hslot : ({ valid := true, pq := slot.pq, q := slot.q } : QuantSlot) = slot := by rw [← hvalid]
  rw [hslot, Proc.bind_run_ok (modifyImage_run _ s)]

/-- What a DQT segment stores: one table after the other (spec R187). -/
def Image.storeQuants (im : Image) (tables : List (Slot × QuantSlot)) : Image :=
  tables.foldl (fun im e => im.setQt e.1 e.2) im

/-- The payload of a DQT segment with these tables. -/
def quantPayload (tables : List (Slot × QuantSlot)) : List Byte := tables.flatMap fun e => dqtPayload e.1 e.2

theorem quantPayload_cons (e : Slot × QuantSlot) (tables : List (Slot × QuantSlot)) :
    quantPayload (e :: tables) = dqtPayload e.1 e.2 ++ quantPayload tables := rfl

/-- Good tables in front of the rest of a DQT segment. -/
theorem dqtTables_run_append {rest : List Byte} (tables : List (Slot × QuantSlot)) :
    ∀ (n : Nat) (s : State), (∀ e ∈ tables, e.2.valid = true ∧ e.2.ok = true) →
    ∃ n', (dqtTables (n + (quantPayload tables).length) (quantPayload tables ++ rest)).run s =
      (dqtTables (n + n') rest).run { s with image := s.image.storeQuants tables } := by
  induction tables with
  | nil => exact fun n s _ => ⟨0, rfl⟩
  | cons e tables ih =>
    intro n s hok
    obtain ⟨hvalid, hslot⟩ := hok e List.mem_cons_self
    obtain ⟨k, hk⟩ : ∃ k, n + (quantPayload (e :: tables)).length = n + k + (quantPayload tables).length + 1 := by
      rw [quantPayload_cons, List.length_append, dqtPayload_eq, List.length_cons]
      exact ⟨(e.2.q.toList.flatMap (quantEntryBytes e.2)).length, by omega⟩
    obtain ⟨n', hn'⟩ := ih (n + k) { s with image := s.image.setQt e.1 e.2 } fun e' h => hok e' (List.mem_cons_of_mem e h)
    refine ⟨k + n', ?_⟩
    rw [hk, quantPayload_cons, List.append_assoc, dqtTables_run_cons hvalid hslot]
    refine hn'.trans ?_
    rw [Nat.add_assoc]
    rfl

/-- The rule of DQT on a segment of good tables. -/
theorem dqtRule_run_tables {s : State} {tables : List (Slot × QuantSlot)} (hne : tables ≠ [])
    (hok : ∀ e ∈ tables, e.2.valid = true ∧ e.2.ok = true) (h : s.reader.holdsSegment (quantPayload tables) = true) :
    dqtRule.run s = .ok () { s.pastSegment (quantPayload tables) with image := s.image.storeQuants tables } := by
  have hlen : (quantPayload tables).length ≠ 0 := by
    obtain ⟨e, tables, rfl⟩ := List.exists_cons_of_ne_nil hne
    rw [quantPayload_cons, dqtPayload_eq]
    exact Nat.succ_ne_zero _
  obtain ⟨n', hrun⟩ := dqtTables_run_append (rest := []) tables 0 (s.pastSegment (quantPayload tables)) hok
  rw [dqtRule_run h, if_neg hlen]
  rw [Nat.zero_add, List.append_nil] at hrun
  rw [hrun]
  cases 0 + n' <;> rfl

/-- Settles O22, table by table. -/
theorem dqtStoresItsTables : Obligations.DqtStoresItsTables := by
  intro s tables hne hok h
  rw [exec_dqt]
  exact runUnit_ok (dqtRule_run_tables hne hok h)

/-! DHT. -/

theorem dhtRule_run {s : State} {payload : List Byte} (h : s.reader.holdsSegment payload = true) :
    dhtRule.run s =
      (if payload.length = 0 then badLength else dhtTables payload.length payload : Proc Unit).run (s.pastSegment payload) :=
  Proc.bind_run_ok (readSegment_run_of_holdsSegment h)

theorem classOf_classNibble (tc : TableClass) : classOf (classNibble tc) = some tc := by cases tc <;> rfl

/-- The counts at the front of a table's bytes (spec R86). -/
theorem counts_of_append (counts : Vector Byte 16) (rest : List Byte) :
    (Vector.ofFn fun i : Fin 16 => (counts.toList ++ rest).getD i.val 0) = counts := by
  ext i hi : 1
  rw [Vector.getElem_ofFn, List.getD_append _ _ _ _ (by simpa using hi), List.getD_eq_getElem _ _ (by simpa using hi)]
  simp

/-- One table of a DHT segment, its header and its counts read (spec R188). -/
theorem dhtTables_run_header {b : Byte} {tc : TableClass} {th : Slot} (hclass : classOf (hiNibble b) = some tc)
    (hslot : slotOf (loNibble b).toNat = some th) (counts : Vector Byte 16) (values : List Byte) (n : Nat) (s : State) :
    (dhtTables (n + 1) (b :: (counts.toList ++ values))).run s =
      (if values.length < totalOf counts then badLength
        else do
          let _ ← buildTableProc counts
          modifyImage fun im => im.setHt tc th { valid := true, counts, values := values.take (totalOf counts) }
          dhtTables n (values.drop (totalOf counts)) : Proc Unit).run s := by
  have hlen : (counts.toList ++ values).length = 16 + values.length := by simp
  have hdrop : ∀ k, (counts.toList ++ values).drop (16 + k) = values.drop k := fun k => by
    rw [← List.drop_drop, List.drop_left' (by simp)]
  have hvalues : (counts.toList ++ values).drop 16 = values := hdrop 0
  rw [dhtTables, hclass]
  dsimp only
  rw [hslot]
  dsimp only
  rw [counts_of_append, hlen, hdrop, hvalues, if_neg (by omega)]
  by_cases hshort : values.length < totalOf counts
  · rw [if_pos hshort, if_pos (by omega)]
  · rw [if_neg hshort, if_neg (by omega)]

theorem dhtTables_run_cons {tc : TableClass} {th : Slot} {slot : HuffSlot} (hvalid : slot.valid = true) (hok : slot.ok = true)
    (n : Nat) (rest : List Byte) (s : State) :
    (dhtTables (n + 1) (dhtPayload tc th slot ++ rest)).run s =
      (dhtTables n rest).run { s with image := s.image.setHt tc th slot } := by
  rw [HuffSlot.ok, hvalid] at hok
  simp only [Bool.not_true, Bool.false_or, Bool.and_eq_true, beq_iff_eq, Option.isSome_iff_exists] at hok
  obtain ⟨hcount, codes, hcodes⟩ := hok
  have hslot : ({ valid := true, counts := slot.counts, values := slot.values } : HuffSlot) = slot := by rw [← hvalid]
  rw [dhtPayload, List.cons_append, List.append_assoc, dhtTables_run_header (tc := tc) (th := th)
    (by rw [hiNibble_nibbles, classOf_classNibble]) (by rw [loNibble_nibbles, slotOf_slotNibble]),
    if_neg (by rw [List.length_append, hcount]; omega), Proc.bind_run_ok (buildTableProc_run_some hcodes s),
    Proc.bind_run_ok (modifyImage_run _ s), ← hcount, List.drop_left, List.take_left, hslot]

/-- What a DHT segment stores: one table after the other (spec R188). -/
def Image.storeHuffs (im : Image) (tables : List (TableClass × Slot × HuffSlot)) : Image :=
  tables.foldl (fun im e => im.setHt e.1 e.2.1 e.2.2) im

/-- The payload of a DHT segment with these tables. -/
def huffPayload (tables : List (TableClass × Slot × HuffSlot)) : List Byte :=
  tables.flatMap fun e => dhtPayload e.1 e.2.1 e.2.2

theorem huffPayload_cons (e : TableClass × Slot × HuffSlot) (tables : List (TableClass × Slot × HuffSlot)) :
    huffPayload (e :: tables) = dhtPayload e.1 e.2.1 e.2.2 ++ huffPayload tables := rfl

/-- Good tables in front of the rest of a DHT segment. -/
theorem dhtTables_run_append {rest : List Byte} (tables : List (TableClass × Slot × HuffSlot)) :
    ∀ (n : Nat) (s : State), (∀ e ∈ tables, e.2.2.valid = true ∧ e.2.2.ok = true) →
    ∃ n', (dhtTables (n + (huffPayload tables).length) (huffPayload tables ++ rest)).run s =
      (dhtTables (n + n') rest).run { s with image := s.image.storeHuffs tables } := by
  induction tables with
  | nil => exact fun n s _ => ⟨0, rfl⟩
  | cons e tables ih =>
    intro n s hok
    obtain ⟨hvalid, hslot⟩ := hok e List.mem_cons_self
    obtain ⟨k, hk⟩ : ∃ k, n + (huffPayload (e :: tables)).length = n + k + (huffPayload tables).length + 1 := by
      rw [huffPayload_cons, List.length_append, dhtPayload, List.length_cons]
      exact ⟨(e.2.2.counts.toList ++ e.2.2.values).length, by omega⟩
    obtain ⟨n', hn'⟩ := ih (n + k) { s with image := s.image.setHt e.1 e.2.1 e.2.2 }
      fun e' h => hok e' (List.mem_cons_of_mem e h)
    refine ⟨k + n', ?_⟩
    rw [hk, huffPayload_cons, List.append_assoc, dhtTables_run_cons hvalid hslot]
    refine hn'.trans ?_
    rw [Nat.add_assoc]
    rfl

/-- The rule of DHT on a segment of good tables. -/
theorem dhtRule_run_tables {s : State} {tables : List (TableClass × Slot × HuffSlot)} (hne : tables ≠ [])
    (hok : ∀ e ∈ tables, e.2.2.valid = true ∧ e.2.2.ok = true) (h : s.reader.holdsSegment (huffPayload tables) = true) :
    dhtRule.run s = .ok () { s.pastSegment (huffPayload tables) with image := s.image.storeHuffs tables } := by
  have hlen : (huffPayload tables).length ≠ 0 := by
    obtain ⟨e, tables, rfl⟩ := List.exists_cons_of_ne_nil hne
    rw [huffPayload_cons, dhtPayload]
    exact Nat.succ_ne_zero _
  obtain ⟨n', hrun⟩ := dhtTables_run_append (rest := []) tables 0 (s.pastSegment (huffPayload tables)) hok
  rw [dhtRule_run h, if_neg hlen]
  rw [Nat.zero_add, List.append_nil] at hrun
  rw [hrun]
  cases 0 + n' <;> rfl

/-- Settles O23, table by table. -/
theorem dhtStoresItsTables : Obligations.DhtStoresItsTables := by
  intro s tables hne hok h
  rw [exec_dht]
  exact runUnit_ok (dhtRule_run_tables hne hok h)

/-! SOF0. -/

/-- The bytes of a frame component (spec R87). -/
def compBytes (c : Comp) : List Byte := [c.c, nibbles c.h c.v, slotByte c.tq]

theorem not_any_of_nodup_concat {α β : Type} [BEq β] [LawfulBEq β] {f : α → β} {xs : List α} {x : α}
    (h : ((xs ++ [x]).map f).Nodup) : ¬ (xs.any fun e => f e == f x) = true := by
  rw [List.map_append, List.map_singleton, List.nodup_append] at h
  obtain ⟨-, -, hdisjoint⟩ := h
  intro hany
  obtain ⟨e, he, heq⟩ := List.any_eq_true.mp hany
  exact hdisjoint _ (List.mem_map_of_mem he) _ (List.mem_singleton_self _) (eq_of_beq heq)

theorem Comp.ok_iff (c : Comp) :
    c.ok = true ↔ 1 ≤ c.h.toNat ∧ c.h.toNat ≤ 4 ∧ 1 ≤ c.v.toNat ∧ c.v.toNat ≤ 4 := by
  simp only [Comp.ok, Bool.and_eq_true, decide_eq_true_eq, and_assoc]
  exact Iff.rfl

theorem flatMap_compBytes_cons (d : Comp) (good : List Comp) (rest : List Byte) :
    (d :: good).flatMap compBytes ++ rest = d.c :: nibbles d.h d.v :: slotByte d.tq :: (good.flatMap compBytes ++ rest) := rfl

/-- Good components in front of the rest of a frame header (spec R189). -/
theorem sofComps_run_append {rest : List Byte} (good : List Comp) : ∀ (acc : List Comp) (s : State),
    (∀ d ∈ good, d.ok = true) → ((acc ++ good).map Comp.c).Nodup →
    (sofComps (good.flatMap compBytes ++ rest) acc).run s = (sofComps rest (acc ++ good)).run s := by
  induction good with
  | nil => exact fun acc s _ _ => by rw [List.append_nil]; rfl
  | cons d good ih =>
    intro acc s hok hnodup
    obtain ⟨hlow, hhigh, vlow, vhigh⟩ := (Comp.ok_iff d).mp (hok d List.mem_cons_self)
    rw [List.append_cons] at hnodup ⊢
    have hnew : ¬ (acc.any fun e => e.c == d.c) = true := by
      rw [List.map_append] at hnodup
      exact not_any_of_nodup_concat (List.nodup_append.mp hnodup).1
    rw [← ih (acc ++ [d]) s (fun d' h => hok d' (List.mem_cons_of_mem d h)) hnodup, 
      flatMap_compBytes_cons, sofComps]
    simp only [hiNibble_nibbles, loNibble_nibbles, slotOf_slotByte, Config.samplingMax]
    rw [if_neg (by simp only [Bool.or_eq_true, decide_eq_true_eq]; omega), if_neg hnew]

/-- The head of a SOF0 payload, the segment read and the sizes checked (spec R189). -/
theorem sof0Rule_run {s : State} {p nf : Byte} {y x : Half} {comps : List Byte}
    (h : s.reader.holdsSegment ([p] ++ be16Bytes y ++ be16Bytes x ++ [nf] ++ comps) = true)
    (hframe : s.image.frame.valid = false) :
    sof0Rule.run s =
      (if comps.length ≠ 3 * nf.toNat then badLength
        else if p ≠ Config.samplePrecision then do raise .unsupportedPrecision (← get).walk.lpos
        else if nf.toNat < 1 || Config.maxComponents < nf.toNat || x = 0 || y = 0 then refuse .badFrameParams
        else do
          let cs ← sofComps comps []
          acceptFrame { valid := true, p, y, x, comps := cs } : Proc Unit).run
        (s.pastSegment ([p] ++ be16Bytes y ++ be16Bytes x ++ [nf] ++ comps)) := by
  rw [sof0Rule, Proc.bind_run_ok (readSegment_run_of_holdsSegment h), Proc.get_bind_run]
  have hvalid : ¬ (s.pastSegment ([p] ++ be16Bytes y ++ be16Bytes x ++ [nf] ++ comps)).image.frame.valid = true := by
    rw [State.pastSegment, hframe]
    decide
  rw [if_neg hvalid]
  simp only [be16Bytes, List.cons_append, List.nil_append, be16_extract]

theorem sof0Payload_eq (f : Frame) :
    sof0Payload f = [f.p] ++ be16Bytes f.y ++ be16Bytes f.x ++ [BitVec.ofNat 8 f.nf] ++ f.comps.flatMap compBytes := rfl

/-- The rule of SOF0 on the header of a legal frame (spec R189, R196). -/
theorem sof0Rule_run_legal {s : State} {f : Frame} (hframe : s.image.frame.valid = false) (hvalid : f.valid = true)
    (hok : f.ok = true) (h : s.reader.holdsSegment (sof0Payload f) = true) :
    sof0Rule.run s = .ok () { s.pastSegment (sof0Payload f) with image := { s.image with frame := f, plane := [] } } := by
  have legal := (Frame.ok_iff_legal hvalid).mp hok
  have hpos := legal.nf_pos
  have hle := legal.nf_le
  have hnf : (BitVec.ofNat 8 f.nf).toNat = f.nf := by
    rw [BitVec.toNat_ofNat]
    omega
  have hlen : (f.comps.flatMap compBytes).length = 3 * f.nf := length_flatMap_const (f := compBytes) (k := 3) (fun _ => rfl) _
  have hcomps := sofComps_run_append (rest := []) f.comps [] (s.pastSegment (sof0Payload f)) legal.comps legal.nodup
  rw [List.append_nil] at hcomps
  have hself : ({ valid := true, p := f.p, y := f.y, x := f.x, comps := f.comps } : Frame) = f := by rw [← hvalid]
  rw [sof0Rule_run (sof0Payload_eq f ▸ h) hframe, hnf, if_neg (not_not.mpr hlen), if_neg (fun hp => hp legal.precision), if_neg]
  · rw [← sof0Payload_eq, Proc.bind_run_ok hcomps, List.nil_append, hself]
    exact congrArg (fun f' : Frame => (EStateM.Result.ok () { s.pastSegment (sof0Payload f) with
      image := { s.image with frame := f', plane := [] } } : EStateM.Result Stop State Unit))
      (by rw [← hvalid])
  · simp only [Bool.or_eq_true, decide_eq_true_eq, not_or]
    exact ⟨⟨⟨Nat.not_lt.mpr hpos, Nat.not_lt.mpr hle⟩, legal.x⟩, legal.y⟩

/-- Settles O18. -/
theorem sof0RecordsTheFrame : Obligations.Sof0RecordsTheFrame := by
  intro s f hframe hvalid hok h
  rw [exec_sof0]
  exact runUnit_ok (sof0Rule_run_legal hframe hvalid hok h)

end Sys2Proof.Machine
end

section
/-! PROOFS of the decoder: the header of a scan, and the defects of the segments (spec R89, R187 to R189, R193, R322). -/

namespace Sys2Proof.Machine

/-! The components of a scan. -/

/-- The bytes of a scan component (spec R89). -/
def scanCompBytes (f : Frame) (d : ScanComp) : List Byte := [(f.comp d.ci).c, nibbles (slotNibble d.td) (slotNibble d.ta)]

theorem Frame.comp_eq_getElem {f : Frame} {ci : Nat} (h : ci < f.nf) : f.comp ci = f.comps[ci] :=
  List.getD_eq_getElem _ _ h

/-- In a legal frame an id names one component (spec R193, R31). -/
theorem Frame.comp_c_inj {f : Frame} (hnodup : (f.comps.map Comp.c).Nodup) {i j : Nat} (hi : i < f.nf) (hj : j < f.nf)
    (h : (f.comp i).c = (f.comp j).c) : i = j := by
  rw [Frame.comp_eq_getElem hi, Frame.comp_eq_getElem hj] at h
  have hi' : i < (f.comps.map Comp.c).length := by rwa [List.length_map]
  have hj' : j < (f.comps.map Comp.c).length := by rwa [List.length_map]
  refine (hnodup.getElem_inj_iff (hi := hi') (hj := hj')).mp ?_
  rw [List.getElem_map, List.getElem_map]
  exact h

theorem Frame.findComp_comp {f : Frame} (hnodup : (f.comps.map Comp.c).Nodup) {ci : Slot} (h : ci.val < f.nf) :
    f.findComp (f.comp ci).c = some ci := by
  have hmem : ∀ x : Slot, x ∈ Config.slots := by decide
  have hfound : (f.findComp (f.comp ci).c).isSome = true := by
    rw [Frame.findComp, List.find?_isSome]
    refine ⟨ci, hmem ci, ?_⟩
    rw [Frame.comp_eq_getElem h, List.getElem?_eq_getElem h]
    simp
  obtain ⟨cj, hcj⟩ := Option.isSome_iff_exists.mp hfound
  obtain ⟨hlt, hc⟩ := Frame.findComp_lt hcj
  rw [hcj, Fin.ext (Frame.comp_c_inj hnodup hlt h hc)]

theorem Frame.findComp_eq_none {f : Frame} {cs : Byte} (h : cs ∉ f.comps.map Comp.c) : f.findComp cs = none := by
  cases hfind : f.findComp cs with
  | none => rfl
  | some ci =>
    obtain ⟨hlt, hc⟩ := Frame.findComp_lt hfind
    refine absurd (List.mem_map.mpr ⟨f.comp ci, ?_, hc⟩) h
    rw [Frame.comp_eq_getElem hlt]
    exact List.getElem_mem hlt

theorem Frame.exists_findComp {f : Frame} (hnodup : (f.comps.map Comp.c).Nodup) (hle : f.nf ≤ 4) {cs : Byte}
    (h : cs ∈ f.comps.map Comp.c) : ∃ ci : Slot, f.findComp cs = some ci ∧ ci.val < f.nf ∧ (f.comp ci).c = cs := by
  obtain ⟨c, hc, rfl⟩ := List.mem_map.mp h
  obtain ⟨i, hi, rfl⟩ := List.mem_iff_getElem.mp hc
  have hcomp := Frame.comp_eq_getElem (f := f) hi
  refine ⟨⟨i, lt_of_lt_of_le hi hle⟩, ?_, hi, congrArg Comp.c hcomp⟩
  rw [← hcomp]
  exact Frame.findComp_comp (ci := ⟨i, lt_of_lt_of_le hi hle⟩) hnodup hi

theorem flatMap_scanCompBytes_cons (f : Frame) (d : ScanComp) (good : List ScanComp) (rest : List Byte) :
    (d :: good).flatMap (scanCompBytes f) ++ rest =
      (f.comp d.ci).c :: nibbles (slotNibble d.td) (slotNibble d.ta) :: (good.flatMap (scanCompBytes f) ++ rest) := rfl

/-- Good components in front of the rest of a scan header (spec R193). -/
theorem sosComps_run_append {f : Frame} (hnodup : (f.comps.map Comp.c).Nodup) {rest : List Byte} (good : List ScanComp) :
    ∀ (acc : List ScanComp) (s : State), (∀ d ∈ good, d.ci.val < f.nf) → ((acc ++ good).map ScanComp.ci).Nodup →
    (sosComps f (good.flatMap (scanCompBytes f) ++ rest) acc).run s = (sosComps f rest (acc ++ good)).run s := by
  induction good with
  | nil => exact fun acc s _ _ => by rw [List.append_nil]; rfl
  | cons d good ih =>
    intro acc s hlt hdistinct
    rw [List.append_cons] at hdistinct ⊢
    have hnew : ¬ (acc.any fun e => e.ci == d.ci) = true := by
      rw [List.map_append] at hdistinct
      exact not_any_of_nodup_concat (List.nodup_append.mp hdistinct).1
    rw [← ih (acc ++ [d]) s (fun d' h => hlt d' (List.mem_cons_of_mem d h)) hdistinct, flatMap_scanCompBytes_cons, sosComps,
      Frame.findComp_comp hnodup (hlt d List.mem_cons_self)]
    simp only [hiNibble_nibbles, loNibble_nibbles, slotOf_slotNibble]
    rw [if_neg hnew]

/-- The head of a SOS payload, the segment read and the sizes checked (spec R193). -/
theorem sosHeader_run {s : State} {ns : Byte} {body : List Byte} (h : s.reader.holdsSegment (ns :: body) = true)
    (hframe : s.image.frame.valid = true) :
    sosHeader.run s =
      (if body.length ≠ 3 + 2 * ns.toNat then badLength
        else if ns.toNat < 1 || Config.maxComponents < ns.toNat then refuse .badScanParams
        else do
          let sc ← sosComps s.image.frame (body.take (2 * ns.toNat)) []
          let ss := body.getD (2 * ns.toNat) 0
          let se := body.getD (2 * ns.toNat + 1) 0
          let a := body.getD (2 * ns.toNat + 2) 0
          if ss ≠ 0 || se ≠ 63 || a ≠ 0 then refuse .badScanParams
          else acceptScan { sc, ss, se, ah := hiNibble a, al := loNibble a } : Proc Unit).run
        (s.pastSegment (ns :: body)) := by
  have hvalid : ¬ (s.pastSegment (ns :: body)).image.frame.valid = false := by
    rw [State.pastSegment, hframe]
    decide
  rw [sosHeader, Proc.bind_run_ok (readSegment_run_of_holdsSegment h), Proc.get_bind_run, if_neg hvalid]
  dsimp only
  split_ifs <;> rfl

/-- The components at the front of a scan's bytes, and what stands behind them. -/
theorem getD_behind {bytes tail : List Byte} {n : Nat} (h : bytes.length = n) (i : Nat) :
    (bytes ++ tail).getD (n + i) 0 = tail.getD i 0 := by
  rw [List.getD_append_right _ _ _ _ (by omega), h, Nat.add_sub_cancel_left]

theorem length_flatMap_scanCompBytes (f : Frame) (good : List ScanComp) :
    (good.flatMap (scanCompBytes f)).length = 2 * good.length :=
  length_flatMap_const (f := scanCompBytes f) (k := 2) (fun _ => rfl) good

/-- The header of a scan with good components: it is decided by the three bytes behind them (spec R193). -/
theorem sosHeader_run_comps {s : State} {ns ss se a : Byte} {good : List ScanComp} (hframe : s.image.frame.valid = true)
    (hnodup : (s.image.frame.comps.map Comp.c).Nodup) (hcount : good.length = ns.toNat) (hpos : 1 ≤ ns.toNat)
    (hle : ns.toNat ≤ 4) (hlt : ∀ d ∈ good, d.ci.val < s.image.frame.nf) (hdistinct : (good.map ScanComp.ci).Nodup)
    (h : s.reader.holdsSegment (ns :: (good.flatMap (scanCompBytes s.image.frame) ++ [ss, se, a])) = true) :
    sosHeader.run s =
      (if ss ≠ 0 || se ≠ 63 || a ≠ 0 then refuse .badScanParams
        else acceptScan { sc := good, ss, se, ah := hiNibble a, al := loNibble a } : Proc Unit).run
        (s.pastSegment (ns :: (good.flatMap (scanCompBytes s.image.frame) ++ [ss, se, a]))) := by
  have hbytes := length_flatMap_scanCompBytes s.image.frame good
  rw [hcount] at hbytes
  have hcomps := sosComps_run_append (rest := []) hnodup good []
    (s.pastSegment (ns :: (good.flatMap (scanCompBytes s.image.frame) ++ [ss, se, a]))) hlt hdistinct
  rw [List.append_nil] at hcomps
  rw [sosHeader_run h hframe, if_neg, if_neg, List.take_left' hbytes, Proc.bind_run_ok hcomps]
  · have h0 := getD_behind (tail := [ss, se, a]) hbytes 0
    rw [Nat.add_zero] at h0
    rw [h0, getD_behind hbytes 1, getD_behind hbytes 2]
    rfl
  · simp only [Bool.or_eq_true, decide_eq_true_eq, not_or]
    exact ⟨Nat.not_lt.mpr hpos, Nat.not_lt.mpr hle⟩
  · rw [List.length_append, hbytes, not_not]
    exact Nat.add_comm _ _

theorem sosPayload_eq (f : Frame) (sc : Scan) :
    sosPayload f sc =
      BitVec.ofNat 8 sc.sc.length :: (sc.sc.flatMap (scanCompBytes f) ++ [sc.ss, sc.se, nibbles sc.ah sc.al]) := rfl

/-- The header of a legal scan is recorded (spec R193). -/
theorem sosHeader_run_legal {s : State} {sc : Scan} (hframe : s.image.frame.valid = true) (hok : s.image.frame.ok = true)
    (hsc : sc.ok s.image.frame = true) (h : s.reader.holdsSegment (sosPayload s.image.frame sc) = true) :
    sosHeader.run s = .ok () { s.pastSegment (sosPayload s.image.frame sc) with
      image := { s.image with scans := s.image.scans ++ [sc] } } := by
  have legal := (Frame.ok_iff_legal hframe).mp hok
  have hscan := Scan.ok_iff_legal.mp hsc
  have hpos := hscan.ns_pos
  have hle := hscan.ns_le
  have hns : (BitVec.ofNat 8 sc.sc.length).toNat = sc.sc.length := by
    rw [BitVec.toNat_ofNat]
    omega
  have hself : ({ sc := sc.sc, ss := sc.ss, se := sc.se, ah := hiNibble (nibbles sc.ah sc.al)
                  al := loNibble (nibbles sc.ah sc.al) } : Scan) = sc := by
    rw [hiNibble_nibbles, loNibble_nibbles]
  have hlast : ¬ (sc.ss ≠ 0 || sc.se ≠ 63 || nibbles sc.ah sc.al ≠ 0) = true := by
    rw [hscan.ss, hscan.se, hscan.ah, hscan.al]
    decide
  rw [sosHeader_run_comps hframe legal.nodup hns.symm (by rwa [hns]) (by rwa [hns]) hscan.comps hscan.nodup h, if_neg hlast,
    hself]
  rfl

/-! The defects. -/

theorem dqtRule_run_defect {s : State} {good : List (Slot × QuantSlot)} {b : Byte} {rest : List Byte}
    (hok : ∀ e ∈ good, e.2.valid = true ∧ e.2.ok = true) (h : s.reader.holdsSegment (quantPayload good ++ b :: rest) = true) :
    ∃ n t, dqtRule.run s = (dqtTables (n + 1) (b :: rest)).run t := by
  have hlen : (quantPayload good ++ b :: rest).length = rest.length + 1 + (quantPayload good).length := by
    rw [List.length_append, List.length_cons, Nat.add_comm]
  obtain ⟨n', hrun⟩ := dqtTables_run_append (rest := b :: rest) good (rest.length + 1)
    (s.pastSegment (quantPayload good ++ b :: rest)) hok
  rw [dqtRule_run h, hlen, if_neg (by omega), hrun, Nat.add_right_comm]
  exact ⟨_, _, rfl⟩

theorem dhtRule_run_defect {s : State} {good : List (TableClass × Slot × HuffSlot)} {b : Byte} {rest : List Byte}
    (hok : ∀ e ∈ good, e.2.2.valid = true ∧ e.2.2.ok = true)
    (h : s.reader.holdsSegment (huffPayload good ++ b :: rest) = true) :
    ∃ n t, dhtRule.run s = (dhtTables (n + 1) (b :: rest)).run t := by
  have hlen : (huffPayload good ++ b :: rest).length = rest.length + 1 + (huffPayload good).length := by
    rw [List.length_append, List.length_cons, Nat.add_comm]
  obtain ⟨n', hrun⟩ := dhtTables_run_append (rest := b :: rest) good (rest.length + 1)
    (s.pastSegment (huffPayload good ++ b :: rest)) hok
  rw [dhtRule_run h, hlen, if_neg (by omega), hrun, Nat.add_right_comm]
  exact ⟨_, _, rfl⟩

/-- The empty segment (spec R187, R188). -/
theorem emptyTables_defect {s : State} (h : s.reader.holdsSegment [] = true) :
    (∃ t, exec .dqt s = .next t ∧ t.failedWith .invalidSegmentLength) ∧
      (∃ t, exec .dht s = .next t ∧ t.failedWith .invalidSegmentLength) := by
  rw [exec_dqt, exec_dht]
  exact ⟨runUnit_raised (dqtRule_run h), runUnit_raised (dhtRule_run h)⟩

/-- The defects of a DQT table (spec R187). -/
theorem dqt_defects {s : State} {good : List (Slot × QuantSlot)} {b : Byte} {rest : List Byte}
    (hok : ∀ e ∈ good, e.2.valid = true ∧ e.2.ok = true) (h : s.reader.holdsSegment (quantPayload good ++ b :: rest) = true) :
    (1 < (hiNibble b).toNat → ∃ t, exec .dqt s = .next t ∧ t.failedWith .unsupportedPrecision) ∧
    ((hiNibble b).toNat ≤ 1 → 4 ≤ (loNibble b).toNat →
      ∃ t, exec .dqt s = .next t ∧ t.refusedWith .tableIdOutOfRange) ∧
    ((hiNibble b).toNat ≤ 1 → (loNibble b).toNat < 4 → rest.length < 64 * ((hiNibble b).toNat + 1) →
      ∃ t, exec .dqt s = .next t ∧ t.failedWith .invalidSegmentLength) := by
  obtain ⟨n, t, hrun⟩ := dqtRule_run_defect hok h
  rw [dqtTables] at hrun
  dsimp only at hrun
  rw [exec_dqt]
  refine ⟨fun hpq => ?_, fun hpq hid => ?_, fun hpq hid hshort => ?_⟩
  · rw [if_pos hpq] at hrun
    exact runUnit_raised hrun
  · rw [if_neg (Nat.not_lt.mpr hpq), slotOf_eq_none hid] at hrun
    exact runProc_refused _ hrun
  · rw [if_neg (Nat.not_lt.mpr hpq), slotOf_eq_some hid] at hrun
    dsimp only at hrun
    rw [if_pos hshort, badLength_run] at hrun
    exact runUnit_raised hrun

theorem classOf_eq_none {tc : BitVec 4} (h : 1 < tc.toNat) : classOf tc = none := by
  rw [classOf, if_neg, if_neg] <;> rintro rfl <;> exact absurd h (by decide)

theorem exists_classOf {tc : BitVec 4} (h : tc.toNat ≤ 1) : ∃ c, classOf tc = some c := by
  have hall : ∀ x : BitVec 4, x.toNat ≤ 1 → x = 0 ∨ x = 1 := by decide
  rcases hall tc h with rfl | rfl
  · exact ⟨.dc, rfl⟩
  · exact ⟨.ac, rfl⟩

/-- The defects of a DHT table (spec R162, R188). -/
theorem dht_defects {s : State} {good : List (TableClass × Slot × HuffSlot)} {b : Byte} {rest : List Byte}
    (hok : ∀ e ∈ good, e.2.2.valid = true ∧ e.2.2.ok = true)
    (h : s.reader.holdsSegment (huffPayload good ++ b :: rest) = true) :
    (1 < (hiNibble b).toNat → ∃ t, exec .dht s = .next t ∧ t.refusedWith .tableClass) ∧
    ((hiNibble b).toNat ≤ 1 → 4 ≤ (loNibble b).toNat →
      ∃ t, exec .dht s = .next t ∧ t.refusedWith .tableIdOutOfRange) ∧
    ((hiNibble b).toNat ≤ 1 → (loNibble b).toNat < 4 →
      (rest.length < 16 → ∃ t, exec .dht s = .next t ∧ t.failedWith .invalidSegmentLength) ∧
      (∀ (counts : Vector Byte 16) (values : List Byte), rest = counts.toList ++ values →
        (values.length < totalOf counts → ∃ t, exec .dht s = .next t ∧ t.failedWith .invalidSegmentLength) ∧
        (totalOf counts ≤ values.length → buildTable counts = none →
          ∃ t, exec .dht s = .next t ∧ t.refusedWith .huffmanOversubscribed))) := by
  obtain ⟨n, t, hrun⟩ := dhtRule_run_defect hok h
  rw [exec_dht]
  refine ⟨fun hclass => ?_, fun hclass hid => ?_, fun hclass hid => ⟨fun hshort => ?_, ?_⟩⟩
  · rw [dhtTables, classOf_eq_none hclass] at hrun
    exact runProc_refused _ hrun
  · obtain ⟨tc, htc⟩ := exists_classOf hclass
    rw [dhtTables, htc] at hrun
    dsimp only at hrun
    rw [slotOf_eq_none hid] at hrun
    exact runProc_refused _ hrun
  · obtain ⟨tc, htc⟩ := exists_classOf hclass
    rw [dhtTables, htc] at hrun
    dsimp only at hrun
    rw [slotOf_eq_some hid] at hrun
    dsimp only at hrun
    rw [if_pos hshort, badLength_run] at hrun
    exact runUnit_raised hrun
  · rintro counts values rfl
    obtain ⟨tc, htc⟩ := exists_classOf hclass
    rw [dhtTables_run_header htc (slotOf_eq_some hid)] at hrun
    refine ⟨fun hshort => ?_, fun hlong hover => ?_⟩
    · rw [if_pos hshort, badLength_run] at hrun
      exact runUnit_raised hrun
    · rw [if_neg (Nat.not_lt.mpr hlong), Proc.bind_run_error (buildTableProc_run_none hover t)] at hrun
      exact runProc_refused _ hrun

/-- The defects of a frame header before its components (spec R189). -/
theorem sof0_defects {s : State} {payload : List Byte} (h : s.reader.holdsSegment payload = true) :
    (s.image.frame.valid = true → ∃ t, exec .sof0 s = .next t ∧ t.failedWith .invalidMarker) ∧
    (s.image.frame.valid = false → payload.length < 6 →
      ∃ t, exec .sof0 s = .next t ∧ t.failedWith .invalidSegmentLength) := by
  have hread := readSegment_run_of_holdsSegment h
  rw [exec_sof0]
  refine ⟨fun hframe => ?_, fun hframe hshort => ?_⟩
  · refine runUnit_raised (s' := s.pastSegment payload) (pos := (s.pastSegment payload).walk.mpos) ?_
    rw [sof0Rule, Proc.bind_run_ok hread, Proc.get_bind_run, if_pos (by exact hframe), misplacedMarker_run]
  · refine runUnit_raised (s' := s.pastSegment payload) (pos := (s.pastSegment payload).walk.lpos) ?_
    have hvalid : ¬ (s.pastSegment payload).image.frame.valid = true := by
      rw [State.pastSegment, hframe]
      decide
    rw [sof0Rule, Proc.bind_run_ok hread, Proc.get_bind_run, if_neg hvalid]
    split
    · simp only [List.length_cons] at hshort
      omega
    · rw [badLength_run]

/-- The defects of a frame header's components (spec R189). -/
theorem sofComps_defects {s : State} {good : List Comp} {c hv tq : Byte} {rest : List Byte}
    (hok : ∀ d ∈ good, d.ok = true) (hnodup : (good.map Comp.c).Nodup) :
    let badFactors := (hiNibble hv).toNat < 1 ∨ 4 < (hiNibble hv).toNat ∨ (loNibble hv).toNat < 1 ∨
      4 < (loNibble hv).toNat
    let p := sofComps (good.flatMap compBytes ++ c :: hv :: tq :: rest) []
    (badFactors → p.run s = .error (.refused .badFrameParams) s) ∧
    (¬ badFactors → 4 ≤ tq.toNat → p.run s = .error (.refused .tableIdOutOfRange) s) ∧
    (¬ badFactors → tq.toNat < 4 → c ∈ good.map Comp.c → p.run s = .error (.refused .badFrameParams) s) := by
  intro badFactors p
  have hrun : p.run s = (sofComps (c :: hv :: tq :: rest) ([] ++ good)).run s := sofComps_run_append good [] s hok hnodup
  rw [List.nil_append, sofComps] at hrun
  have hcond : ((hiNibble hv).toNat < 1 || Config.samplingMax < (hiNibble hv).toNat || (loNibble hv).toNat < 1 ||
      Config.samplingMax < (loNibble hv).toNat) = true ↔ badFactors := by
    simp only [Bool.or_eq_true, decide_eq_true_eq, or_assoc]
    exact Iff.rfl
  refine ⟨fun hbad => ?_, fun hgood hid => ?_, fun hgood hid hc => ?_⟩
  · rw [hrun, if_pos (hcond.mpr hbad), refuse_run]
  · rw [hrun, if_neg (mt hcond.mp hgood), slotOf_eq_none hid]
    rfl
  · obtain ⟨d, hd, rfl⟩ := List.mem_map.mp hc
    have hany : (good.any fun e => e.c == d.c) = true := List.any_eq_true.mpr ⟨d, hd, beq_self_eq_true _⟩
    rw [hrun, if_neg (mt hcond.mp hgood), slotOf_eq_some hid]
    dsimp only
    rw [if_pos hany, refuse_run]

/-- The defects of a scan header before its components (spec R193). -/
theorem sos_defects {s : State} {payload : List Byte} (h : s.reader.holdsSegment payload = true) :
    (s.image.frame.valid = false → ∃ t, exec .sos s = .next t ∧ t.failedWith .invalidMarker) ∧
    (s.image.frame.valid = true → payload = [] →
      ∃ t, exec .sos s = .next t ∧ t.failedWith .invalidSegmentLength) := by
  have hread := readSegment_run_of_holdsSegment h
  rw [exec_sos]
  refine ⟨fun hframe => ?_, fun hframe hnil => ?_⟩
  · refine runUnit_raised (s' := s.pastSegment payload) (pos := (s.pastSegment payload).walk.mpos) (Proc.bind_run_error ?_)
    rw [sosHeader, Proc.bind_run_ok hread, Proc.get_bind_run, if_pos (by exact hframe), misplacedMarker_run]
  · subst hnil
    refine runUnit_raised (s' := s.pastSegment []) (pos := (s.pastSegment []).walk.lpos) (Proc.bind_run_error ?_)
    have hvalid : ¬ (s.pastSegment []).image.frame.valid = false := by
      rw [State.pastSegment, hframe]
      decide
    rw [sosHeader, Proc.bind_run_ok hread, Proc.get_bind_run, if_neg hvalid]
    rfl

/-- The defects of a scan header's components (spec R193). -/
theorem sosComps_defects {f : Frame} (legal : f.Legal) {s : State} {good : List ScanComp} {cs tables : Byte}
    {rest : List Byte} (hlt : ∀ d ∈ good, d.ci.val < f.nf) (hdistinct : (good.map ScanComp.ci).Nodup) :
    let badTables := 4 ≤ (hiNibble tables).toNat ∨ 4 ≤ (loNibble tables).toNat
    let p := sosComps f (good.flatMap (scanCompBytes f) ++ cs :: tables :: rest) []
    (cs ∉ f.comps.map Comp.c → p.run s = .error (.refused .badScanParams) s) ∧
    (cs ∈ f.comps.map Comp.c → badTables → p.run s = .error (.refused .tableIdOutOfRange) s) ∧
    (¬ badTables → cs ∈ good.map (fun d => (f.comp d.ci).c) → p.run s = .error (.refused .badScanParams) s) := by
  intro badTables p
  have hrun : p.run s = (sosComps f (cs :: tables :: rest) ([] ++ good)).run s :=
    sosComps_run_append legal.nodup good [] s hlt hdistinct
  rw [List.nil_append, sosComps] at hrun
  refine ⟨fun hcs => ?_, fun hcs hbad => ?_, fun hgood hcs => ?_⟩
  · rw [hrun, Frame.findComp_eq_none hcs]
    rfl
  · obtain ⟨ci, hci, -⟩ := Frame.exists_findComp legal.nodup legal.nf_le hcs
    rw [hrun, hci]
    dsimp only
    rcases hbad with hbad | hbad
    · rw [slotOf_eq_none hbad]
      rfl
    · rw [slotOf_eq_none hbad]
      split
      · rename_i heq
        cases heq
      · rfl
  · obtain ⟨htd, hta⟩ := not_or.mp hgood
    obtain ⟨d, hd, rfl⟩ := List.mem_map.mp hcs
    have hany : (good.any fun e => e.ci == d.ci) = true := List.any_eq_true.mpr ⟨d, hd, beq_self_eq_true _⟩
    rw [hrun, Frame.findComp_comp legal.nodup (hlt d hd), slotOf_eq_some (Nat.not_le.mp htd),
      slotOf_eq_some (Nat.not_le.mp hta)]
    dsimp only
    rw [if_pos hany, refuse_run]

/-- The defects of a frame header whose size is read, up to its first bad component (spec R189). -/
theorem sof0_defects_of_header {s : State} {p nf : Byte} {y x : Half} {comps : List Byte}
    (h : s.reader.holdsSegment ([p] ++ be16Bytes y ++ be16Bytes x ++ [nf] ++ comps) = true)
    (hframe : s.image.frame.valid = false) :
    (comps.length ≠ 3 * nf.toNat → ∃ t, exec .sof0 s = .next t ∧ t.failedWith .invalidSegmentLength) ∧
    (comps.length = 3 * nf.toNat → p ≠ 8 → ∃ t, exec .sof0 s = .next t ∧ t.failedWith .unsupportedPrecision) ∧
    (comps.length = 3 * nf.toNat → p = 8 → nf.toNat < 1 ∨ 4 < nf.toNat ∨ x = 0 ∨ y = 0 →
      ∃ t, exec .sof0 s = .next t ∧ t.refusedWith .badFrameParams) ∧
    (comps.length = 3 * nf.toNat → p = 8 → 1 ≤ nf.toNat → nf.toNat ≤ 4 → x ≠ 0 → y ≠ 0 →
      ∀ (good : List Comp) (c hv tq : Byte) (rest : List Byte),
      comps = good.flatMap compBytes ++ c :: hv :: tq :: rest →
      (∀ d ∈ good, d.ok = true) → (good.map Comp.c).Nodup →
      let badFactors := (hiNibble hv).toNat < 1 ∨ 4 < (hiNibble hv).toNat ∨ (loNibble hv).toNat < 1 ∨
        4 < (loNibble hv).toNat
      (badFactors → ∃ t, exec .sof0 s = .next t ∧ t.refusedWith .badFrameParams) ∧
      (¬ badFactors → 4 ≤ tq.toNat → ∃ t, exec .sof0 s = .next t ∧ t.refusedWith .tableIdOutOfRange) ∧
      (¬ badFactors → tq.toNat < 4 → c ∈ good.map Comp.c →
        ∃ t, exec .sof0 s = .next t ∧ t.refusedWith .badFrameParams)) := by
  have hrun := sof0Rule_run h hframe
  rw [Config.samplePrecision] at hrun
  have hparams : (nf.toNat < 1 || Config.maxComponents < nf.toNat || x = 0 || y = 0) = true ↔
      nf.toNat < 1 ∨ 4 < nf.toNat ∨ x = 0 ∨ y = 0 := by
    simp only [Bool.or_eq_true, decide_eq_true_eq, or_assoc]
    exact Iff.rfl
  rw [exec_sof0]
  refine ⟨fun hlen => ?_, fun hlen hp => ?_, fun hlen hp hbad => ?_,
    fun hlen hp hpos hle hx hy good c hv tq rest hcomps hok hnodup => ?_⟩
  · rw [if_pos hlen, badLength_run] at hrun
    exact runUnit_raised hrun
  · rw [if_neg (not_not.mpr hlen), if_pos hp] at hrun
    exact runUnit_raised hrun
  · rw [if_neg (not_not.mpr hlen), if_neg (not_not.mpr hp), if_pos (hparams.mpr hbad)] at hrun
    exact runProc_refused _ hrun
  · have hgood : ¬ (nf.toNat < 1 ∨ 4 < nf.toNat ∨ x = 0 ∨ y = 0) := by
      rintro (h1 | h1 | h1 | h1)
      · omega
      · omega
      · exact hx h1
      · exact hy h1
    rw [if_neg (not_not.mpr hlen), if_neg (not_not.mpr hp), if_neg (mt hparams.mp hgood)] at hrun
    subst hcomps
    obtain ⟨hfactors, hid, hdouble⟩ := sofComps_defects (c := c) (hv := hv) (tq := tq) (rest := rest) hok hnodup
    exact ⟨fun hb => runProc_refused _ (hrun.trans (Proc.bind_run_error (hfactors hb))),
      fun hb htq => runProc_refused _ (hrun.trans (Proc.bind_run_error (hid hb htq))),
      fun hb htq hc => runProc_refused _ (hrun.trans (Proc.bind_run_error (hdouble hb htq hc)))⟩

/-- The defects of a scan header whose size is read, up to its first bad component (spec R193). -/
theorem sos_defects_of_header {s : State} {ns : Byte} {body : List Byte} (h : s.reader.holdsSegment (ns :: body) = true)
    (hframe : s.image.frame.valid = true) (hlegal : s.image.frame.ok = true) :
    (body.length ≠ 3 + 2 * ns.toNat → ∃ t, exec .sos s = .next t ∧ t.failedWith .invalidSegmentLength) ∧
    (body.length = 3 + 2 * ns.toNat → ns.toNat < 1 ∨ 4 < ns.toNat →
      ∃ t, exec .sos s = .next t ∧ t.refusedWith .badScanParams) ∧
    (body.length = 3 + 2 * ns.toNat → 1 ≤ ns.toNat → ns.toNat ≤ 4 → ∀ good : List ScanComp,
      (∀ d ∈ good, d.ci.val < s.image.frame.nf) → (good.map ScanComp.ci).Nodup →
      (∀ (cs tables : Byte) (rest : List Byte), good.length < ns.toNat →
        body = good.flatMap (scanCompBytes s.image.frame) ++ cs :: tables :: rest →
        let badTables := 4 ≤ (hiNibble tables).toNat ∨ 4 ≤ (loNibble tables).toNat
        (cs ∉ s.image.frame.comps.map Comp.c → ∃ t, exec .sos s = .next t ∧ t.refusedWith .badScanParams) ∧
        (cs ∈ s.image.frame.comps.map Comp.c → badTables →
          ∃ t, exec .sos s = .next t ∧ t.refusedWith .tableIdOutOfRange) ∧
        (¬ badTables → cs ∈ good.map (fun d => (s.image.frame.comp d.ci).c) →
          ∃ t, exec .sos s = .next t ∧ t.refusedWith .badScanParams)) ∧
      (∀ ss se a : Byte, good.length = ns.toNat →
        body = good.flatMap (scanCompBytes s.image.frame) ++ [ss, se, a] → ¬ (ss = 0 ∧ se = 63 ∧ a = 0) →
        ∃ t, exec .sos s = .next t ∧ t.refusedWith .badScanParams)) := by
  have legal := (Frame.ok_iff_legal hframe).mp hlegal
  have hrun := sosHeader_run h hframe
  have hcount : (ns.toNat < 1 || Config.maxComponents < ns.toNat) = true ↔ ns.toNat < 1 ∨ 4 < ns.toNat := by
    simp only [Bool.or_eq_true, decide_eq_true_eq]
    exact Iff.rfl
  rw [exec_sos]
  refine ⟨fun hlen => ?_, fun hlen hns => ?_, fun hlen hpos hle good hlt hdistinct =>
    ⟨fun cs tables rest hshort hbody => ?_, fun ss se a hall hbody hbad => ?_⟩⟩
  · rw [if_pos hlen, badLength_run] at hrun
    exact runUnit_raised (Proc.bind_run_error hrun)
  · rw [if_neg (not_not.mpr hlen), if_pos (hcount.mpr hns)] at hrun
    exact runProc_refused _ (Proc.bind_run_error hrun)
  · have hfits : body.take (2 * ns.toNat) = good.flatMap (scanCompBytes s.image.frame) ++ cs :: tables ::
        rest.take (2 * ns.toNat - 2 * good.length - 2) := by
      have hbytes := length_flatMap_scanCompBytes s.image.frame good
      obtain ⟨k, hk⟩ : ∃ k, 2 * ns.toNat = 2 * good.length + (k + 2) := ⟨2 * ns.toNat - 2 * good.length - 2, by omega⟩
      rw [hbody, hk, ← hbytes, List.take_length_add_append]
      simp
    rw [if_neg (not_not.mpr hlen), if_neg (mt hcount.mp (by omega)), hfits] at hrun
    obtain ⟨hnone, htables, hdouble⟩ := sosComps_defects legal (s := s.pastSegment (ns :: body)) (cs := cs) (tables := tables)
      (rest := rest.take (2 * ns.toNat - 2 * good.length - 2)) hlt hdistinct
    exact ⟨fun hcs => runProc_refused _ (Proc.bind_run_error (hrun.trans (Proc.bind_run_error (hnone hcs)))),
      fun hcs hb => runProc_refused _ (Proc.bind_run_error (hrun.trans (Proc.bind_run_error (htables hcs hb)))),
      fun hb hcs => runProc_refused _ (Proc.bind_run_error (hrun.trans (Proc.bind_run_error (hdouble hb hcs))))⟩
  · subst hbody
    have hlast : (ss ≠ 0 || se ≠ 63 || a ≠ 0) = true := by
      simp only [Bool.or_eq_true, decide_eq_true_eq, or_assoc]
      by_contra hgood
      simp only [not_or, not_not, ne_eq] at hgood
      exact hbad hgood
    have hheader := sosHeader_run_comps hframe legal.nodup hall hpos hle hlt hdistinct h
    rw [if_pos hlast, refuse_run] at hheader
    exact runProc_refused _ (Proc.bind_run_error hheader)

/-- Settles O24, defect by defect. -/
theorem segmentDefectsAreReported : Obligations.SegmentDefectsAreReported := by
  refine ⟨fun s h => emptyTables_defect h, fun s good b rest hok h => dqt_defects hok h,
    fun s good b rest hok h => dht_defects hok h, fun s payload h => ?_, fun s payload h => ?_⟩
  · obtain ⟨htwice, hshort⟩ := sof0_defects h
    refine ⟨htwice, hshort, fun hframe p nf y x comps hpayload => ?_⟩
    subst hpayload
    exact sof0_defects_of_header h hframe
  · obtain ⟨hnoframe, hempty⟩ := sos_defects h
    refine ⟨hnoframe, hempty, fun hframe hlegal ns body hpayload => ?_⟩
    subst hpayload
    exact sos_defects_of_header h hframe hlegal

end Sys2Proof.Machine
end

section
/-! PROOFS of the decoder: a data unit (spec R92, R163, R199 to R201). -/

namespace Sys2Proof.Machine

theorem exec_decodeDc (ci td : Slot) (s : State) : exec (.decodeDc ci td) s = runUnit (decodeDc ci td) s := by rfl
theorem exec_decodeAc (ta : Slot) (s : State) : exec (.decodeAc ta) s = runProc Value.bool (decodeAc ta) s := by rfl
theorem exec_decodeBlock (ci td ta : Slot) (s : State) :
    exec (.decodeBlock ci td ta) s = runUnit (decodeBlock ci td ta) s := by rfl

/-! Code words. -/

/-- A symbol with a code word stands in the slot's table, of whose code words none begins another (spec R161, R164). -/
theorem HuffSlot.exists_of_codeOf {slot : HuffSlot} {sym : Byte} {code : List Bool} (h : slot.codeOf sym = some code) :
    ∃ (table : CodeTable) (e : (Nat × Nat) × Byte), (∀ s, (slotCodes slot).run s = .ok table s) ∧ PrefixFree table ∧
      e ∈ table ∧ table.find? (fun e => e.2 == sym) = some e ∧ e.2 = sym ∧ natToBits e.1.1 e.1.2 = code := by
  rw [HuffSlot.codeOf] at h
  split at h
  · rename_i hvalid
    cases hcs : buildTable slot.counts with
    | none => rw [hcs] at h; cases h
    | some cs =>
      rw [hcs] at h
      obtain ⟨e, hfind, hcode⟩ := Option.map_eq_some_iff.mp h
      have hsym := List.find?_some (p := fun e : (Nat × Nat) × Byte => e.2 == sym) hfind
      exact ⟨cs.zip slot.values, e, slotCodes_run_valid hvalid hcs, buildTable_prefixFree hcs _,
        List.mem_of_find?_eq_some hfind, hfind, eq_of_beq hsym, hcode⟩
  · cases h

/-- `huff_decode` of a symbol's code word (spec R163). -/
theorem huffDecode_run_code {s : State} {tc : TableClass} {th : Slot} {sym : Byte} {code : List Bool} {r : Reader}
    (hcode : (s.image.ht tc th).codeOf sym = some code) (htake : s.reader.takeBits code.length = some (code, r)) :
    (huffDecode tc th).run s = .ok sym { s with reader := r } := by
  obtain ⟨table, e, hslot, hprefix, he, -, rfl, rfl⟩ := HuffSlot.exists_of_codeOf hcode
  rw [length_natToBits] at htake
  rw [huffDecode_run (hslot s)]
  exact hprefix.huffDecodeFrom_run he htake

/-- Taking bits in two parts. -/
theorem Reader.takeBits_add (m n : Nat) : ∀ r : Reader,
    r.takeBits (m + n) = (r.takeBits m).bind fun p => (p.2.takeBits n).map fun q => (p.1 ++ q.1, q.2) := by
  induction m with
  | zero =>
    intro r
    rw [Nat.zero_add, Reader.takeBits, Option.bind_some]
    cases r.takeBits n <;> rfl
  | succ m ih =>
    intro r
    rw [Nat.succ_add, Reader.takeBits, Reader.takeBits]
    cases r.nextBit with
    | none => rfl
    | some next =>
      dsimp only
      rw [ih]
      cases next.2.takeBits m with
      | none => rfl
      | some p =>
        simp only [Option.map_some, Option.bind_some]
        cases p.2.takeBits n <;> rfl

theorem Reader.takeBits_append {r r' : Reader} {a b : List Bool} (h : r.takeBits (a ++ b).length = some (a ++ b, r')) :
    ∃ r1, r.takeBits a.length = some (a, r1) ∧ r1.takeBits b.length = some (b, r') := by
  rw [List.length_append, Reader.takeBits_add] at h
  obtain ⟨⟨a', r1⟩, ha, hrest⟩ := Option.bind_eq_some_iff.mp h
  obtain ⟨⟨b', r2⟩, hb, heq⟩ := Option.map_eq_some_iff.mp hrest
  obtain ⟨happ, rfl⟩ := Prod.mk.inj heq
  obtain ⟨rfl, rfl⟩ := List.append_inj happ (Reader.length_of_takeBits ha)
  exact ⟨r1, ha, hb⟩

/-- The magnitude bits of a value read back as it (spec R202, R254). -/
theorem extend_natToBits_magbits (v : Int) : extend (bitsToNat (natToBits (magbits v (size v)) (size v))) (size v) = v := by
  obtain ⟨hlt, hextend⟩ := extend_magbits v
  rw [bitsToNat_natToBits, Nat.mod_eq_of_lt hlt, hextend]

/-! The DC coefficient. -/

/-- `decode_dc` behind its symbol (spec R200). -/
theorem decodeDc_run_symbol {s : State} {ci td : Slot} {sym : Byte} {code : List Bool} {r : Reader}
    (hcode : (s.image.ht .dc td).codeOf sym = some code) (htake : s.reader.takeBits code.length = some (code, r)) :
    (decodeDc ci td).run s =
      (if h : sym.toNat < 12 then dcSizeRule ci ⟨sym.toNat, h⟩ else illegalDcRule sym).run { s with reader := r } :=
  Proc.bind_run_ok (huffDecode_run_code hcode htake)

theorem toNat_ofNat_size {v : Int} {n : Nat} (h : size v ≤ n) (hn : n < 256) : (BitVec.ofNat 8 (size v)).toNat = size v := by
  rw [BitVec.toNat_ofNat]
  exact Nat.mod_eq_of_lt (by omega)

/-- `decode_dc` of the code of a difference (spec R92, R200). -/
theorem decodeDc_run_bits {s : State} {ci td : Slot} {diff : Int} {bits : List Bool} {r : Reader}
    (hbits : dcBits (s.image.ht .dc td) diff = some bits) (htake : s.reader.takeBits bits.length = some (bits, r)) :
    (decodeDc ci td).run s = .ok () { s with
      reader := r
      work := { s.work with pred := s.work.pred.set ci (s.work.pred[ci] + diff)
                            cb := s.work.cb.set 0 (s.work.pred[ci] + diff) } } := by
  rw [dcBits] at hbits
  split at hbits
  · rename_i hsize
    obtain ⟨code, hcode, rfl⟩ := Option.map_eq_some_iff.mp hbits
    obtain ⟨r1, htake1, htake2⟩ := Reader.takeBits_append htake
    have hsym := toNat_ofNat_size hsize (by decide)
    have hlt : (BitVec.ofNat 8 (size diff)).toNat < 12 := by
      rw [hsym]
      exact Nat.lt_succ_of_le hsize
    have hfin : (⟨(BitVec.ofNat 8 (size diff)).toNat, hlt⟩ : Fin 12) = ⟨size diff, Nat.lt_succ_of_le hsize⟩ := Fin.ext hsym
    rw [length_natToBits] at htake2
    rw [decodeDc_run_symbol hcode htake1, dif_pos hlt, hfin, dcSizeRule_run htake2]
    dsimp only
    rw [extend_natToBits_magbits]
  · cases hbits

/-! The AC coefficients. -/

/-- `decode_ac` behind its symbol (spec R201). -/
theorem decodeAc_run_symbol {s : State} {ta : Slot} {sym : Byte} {code : List Bool} {r : Reader}
    (hcode : (s.image.ht .ac ta).codeOf sym = some code) (htake : s.reader.takeBits code.length = some (code, r)) :
    (decodeAc ta).run s =
      (if sym = 0x00 then eobRule else if sym = 0xF0 then zrlRule
        else acRunSizeRule (hiNibble sym) (loNibble sym)).run { s with reader := r } :=
  Proc.bind_run_ok (huffDecode_run_code hcode htake)

theorem decodeAc_run_eob {s : State} {ta : Slot} {code : List Bool} {r : Reader}
    (hcode : (s.image.ht .ac ta).codeOf 0x00 = some code) (htake : s.reader.takeBits code.length = some (code, r)) :
    (decodeAc ta).run s = .ok true { s with reader := r } := by
  rw [decodeAc_run_symbol hcode htake, if_pos rfl]
  rfl

theorem decodeAc_run_zrl {s : State} {ta : Slot} {code : List Bool} {r : Reader}
    (hcode : (s.image.ht .ac ta).codeOf 0xF0 = some code) (htake : s.reader.takeBits code.length = some (code, r))
    (hk : s.work.k ≤ 48) :
    (decodeAc ta).run s = .ok false { s with reader := r, work := { s.work with k := s.work.k + 16 } } := by
  rw [decodeAc_run_symbol hcode htake, if_neg (by decide), if_pos rfl, zrlRule_run, if_pos hk]

theorem nibbles_ne_of_wellFormed {run sz : BitVec 4} (h : (Instr.acRunSize run sz).wellFormed = true) :
    nibbles run sz ≠ 0x00 ∧ nibbles run sz ≠ 0xF0 := by
  have hne : sz = 0 → run ≠ 0 ∧ run ≠ 15 := fun hs => by simpa [Instr.wellFormed, hs] using h
  refine ⟨fun h0 => ?_, fun h0 => ?_⟩
  · obtain ⟨hr, hs⟩ := nibbles_inj (hi' := 0) (lo' := 0) h0
    exact (hne hs).1 hr
  · obtain ⟨hr, hs⟩ := nibbles_inj (hi' := 15) (lo' := 0) h0
    exact (hne hs).2 hr

/-- `decode_ac` behind a run and a size (spec R201). -/
theorem decodeAc_run_runSize {s : State} {ta : Slot} {run sz : BitVec 4} {code : List Bool} {r : Reader}
    (hwf : (Instr.acRunSize run sz).wellFormed = true) (hcode : (s.image.ht .ac ta).codeOf (nibbles run sz) = some code)
    (htake : s.reader.takeBits code.length = some (code, r)) :
    (decodeAc ta).run s = (acRunSizeRule run sz).run { s with reader := r } := by
  obtain ⟨heob, hzrl⟩ := nibbles_ne_of_wellFormed hwf
  rw [decodeAc_run_symbol hcode htake, if_neg heob, if_neg hzrl, hiNibble_nibbles, loNibble_nibbles]

/-- The size nibble of a value that is not 0. -/
theorem sizeNibble {v : Int} (hv : v ≠ 0) (hsize : size v ≤ 15) :
    (BitVec.ofNat 4 (size v)).toNat = size v ∧
      ∀ run, (Instr.acRunSize run (BitVec.ofNat 4 (size v))).wellFormed = true := by
  obtain ⟨hpos, -, -⟩ := size_bounds hv
  have htoNat : (BitVec.ofNat 4 (size v)).toNat = size v := by
    rw [BitVec.toNat_ofNat]
    exact Nat.mod_eq_of_lt (by omega)
  have hne : BitVec.ofNat 4 (size v) ≠ 0 := fun h => by
    rw [h] at htoNat
    exact absurd htoNat (by simp; omega)
  exact ⟨htoNat, fun run => by simpa [Instr.wellFormed] using .inl hne⟩

/-- `decode_ac` of the code of a value behind a run (spec R92, R201). -/
theorem decodeAc_run_value {s : State} {ta : Slot} {run : BitVec 4} {v : Int} {code : List Bool} {r : Reader}
    (h : s.work.k + run.toNat < 64) (hv : v ≠ 0) (hsize : size v ≤ 15)
    (hcode : (s.image.ht .ac ta).codeOf (nibbles run (BitVec.ofNat 4 (size v))) = some code)
    (htake : s.reader.takeBits (code ++ natToBits (magbits v (size v)) (size v)).length =
      some (code ++ natToBits (magbits v (size v)) (size v), r)) :
    (decodeAc ta).run s = .ok false { s with
      reader := r
      work := { s.work with cb := s.work.cb.set (s.work.k + run.toNat) v h
                            k := s.work.k + run.toNat + 1 } } := by
  obtain ⟨r1, htake1, htake2⟩ := Reader.takeBits_append htake
  obtain ⟨htoNat, hwf⟩ := sizeNibble hv hsize
  rw [length_natToBits, ← htoNat] at htake2
  rw [decodeAc_run_runSize (hwf run) hcode htake1, acRunSizeRule_run (s := { s with reader := r1 }) h htake2]
  dsimp only
  rw [htoNat, extend_natToBits_magbits]

/-! The AC loop. -/

/-- The AC loop, one turn (spec R199). -/
theorem decodeAcs_run_succ {s t : State} {ta : Slot} {stop : Bool} (n : Nat) (hk : s.work.k ≤ 63)
    (h : (decodeAc ta).run s = .ok stop t) :
    (decodeAcs ta (n + 1)).run s = if stop then .ok () t else (decodeAcs ta n).run t := by
  rw [decodeAcs, Proc.get_bind_run, if_pos hk, Proc.bind_run_ok h]
  split <;> rfl

theorem decodeAcs_run_done {s : State} (ta : Slot) (n : Nat) (hk : 63 < s.work.k) : (decodeAcs ta n).run s = .ok () s := by
  cases n with
  | zero => rfl
  | succ n =>
    rw [decodeAcs, Proc.get_bind_run, if_neg (Nat.not_le.mpr hk)]
    rfl

/-- A turn of the AC loop that goes on raises `k`, so that there is fuel for the rest of the block. -/
theorem decodeAcs_run_zrls {ta : Slot} {code : List Bool} {r : Reader} (m : Nat) : ∀ (n : Nat) (s : State),
    (s.image.ht .ac ta).codeOf 0xF0 = some code → s.work.k + 16 * m < 64 →
    s.reader.takeBits (List.replicate m code).flatten.length = some ((List.replicate m code).flatten, r) →
    (decodeAcs ta (n + m)).run s =
      (decodeAcs ta n).run { s with reader := r, work := { s.work with k := s.work.k + 16 * m } } := by
  induction m with
  | zero =>
    intro n s _ _ htake
    cases htake
    rfl
  | succ m ih =>
    intro n s hcode hk htake
    rw [List.replicate_succ, List.flatten_cons] at htake
    obtain ⟨r1, htake1, htake2⟩ := Reader.takeBits_append htake
    rw [← Nat.add_assoc, decodeAcs_run_succ (n + m) (by omega) (decodeAc_run_zrl hcode htake1 (by omega)), if_neg (by decide),
      ih n { s with reader := r1, work := { s.work with k := s.work.k + 16 } } hcode (by dsimp only; omega) htake2]
    dsimp only
    rw [Nat.mul_succ, Nat.add_assoc, Nat.add_comm 16]

/-- How far a block is decoded: `CB` holds its coefficients below index `k`, and zeros from there on. -/
def DecodedTo (cb0 cb : Vector Int 64) (k : Nat) : Prop :=
  ∀ (i : Nat) (h : i < 64), cb[i] = if i < k then cb0[i] else 0

/-- Zeros in the block need not be stored. -/
theorem DecodedTo.skip {cb0 cb : Vector Int 64} {k k' : Nat} (h : DecodedTo cb0 cb k) (hle : k ≤ k')
    (hzero : ∀ (i : Nat) (h : i < 64), k ≤ i → i < k' → cb0[i] = 0) : DecodedTo cb0 cb k' := fun i hi => by
  rw [h i hi]
  by_cases hk : i < k
  · rw [if_pos hk, if_pos (hk.trans_le hle)]
  · by_cases hk' : i < k'
    · rw [if_neg hk, if_pos hk', hzero i hi (Nat.not_lt.mp hk) hk']
    · rw [if_neg hk, if_neg hk']

/-- The next coefficient is stored. -/
theorem DecodedTo.store {cb0 cb : Vector Int 64} {k : Nat} (h : DecodedTo cb0 cb k) (hk : k < 64) :
    DecodedTo cb0 (cb.set k cb0[k] hk) (k + 1) := fun i hi => by
  rw [Vector.getElem_set]
  by_cases heq : k = i
  · subst heq
    rw [if_pos rfl, if_pos (Nat.lt_succ_self k)]
  · rw [if_neg heq, h i hi]
    by_cases hlt : i < k
    · rw [if_pos hlt, if_pos (Nat.lt_succ_of_lt hlt)]
    · rw [if_neg hlt, if_neg (by omega)]

theorem DecodedTo.eq {cb0 cb : Vector Int 64} {k : Nat} (h : DecodedTo cb0 cb k) (hk : 64 ≤ k) : cb = cb0 := by
  ext i hi
  rw [h i hi, if_pos (lt_of_lt_of_le hi hk)]

/-- The bits of `n` ZRL symbols (spec R92). -/
theorem zrlBits_eq_some {slot : HuffSlot} {n : Nat} {bits : List Bool} (h : zrlBits slot n = some bits) :
    (n = 0 ∧ bits = []) ∨ ∃ code, slot.codeOf 0xF0 = some code ∧ bits = (List.replicate n code).flatten := by
  rw [zrlBits] at h
  split at h
  · rename_i hn
    cases h
    exact .inl ⟨hn, rfl⟩
  · obtain ⟨code, hcode, rfl⟩ := Option.map_eq_some_iff.mp h
    exact .inr ⟨code, hcode, rfl⟩

/-- The codes of a value that is not 0, and of what follows it (spec R92, R255). -/
theorem acBits_cons_of_ne {slot : HuffSlot} {r : Nat} {v : Int} {vs : List Int} {bits : List Bool} (hv : v ≠ 0)
    (h : acBits slot r (v :: vs) = some bits) :
    size v ≤ 15 ∧ ∃ zrls code rest, zrlBits slot (r / 16) = some zrls ∧
      slot.codeOf (nibbles (BitVec.ofNat 4 (r % 16)) (BitVec.ofNat 4 (size v))) = some code ∧
      acBits slot 0 vs = some rest ∧
      bits = zrls ++ ((code ++ natToBits (magbits v (size v)) (size v)) ++ rest) := by
  rw [acBits, if_neg hv] at h
  split at h
  · rename_i hsize
    split at h
    · rename_i zrls code rest hzrls hcode hrest
      cases h
      exact ⟨hsize, zrls, code, rest, hzrls, hcode, hrest, by simp only [List.append_assoc]⟩
    · cases h
  · cases h

/-- Any ZRL symbols in front of a coefficient (spec R201, R255). -/
theorem decodeAcs_run_zrlBits {ta : Slot} {zrls : List Bool} {r : Reader} {m n : Nat} {s : State}
    (hzrls : zrlBits (s.image.ht .ac ta) m = some zrls) (hk : s.work.k + 16 * m < 64)
    (htake : s.reader.takeBits zrls.length = some (zrls, r)) :
    (decodeAcs ta (n + m)).run s =
      (decodeAcs ta n).run { s with reader := r, work := { s.work with k := s.work.k + 16 * m } } := by
  obtain ⟨rfl, rfl⟩ | ⟨code, hcode, rfl⟩ := zrlBits_eq_some hzrls
  · cases htake
    rfl
  · exact decodeAcs_run_zrls m n s hcode hk htake

/-- The AC loop reads the codes of the coefficients from `k` on, of which the first `r` are zeros (spec R199, R201). -/
theorem decodeAcs_run_bits {ta : Slot} {cb0 : Vector Int 64} {r' : Reader} (vs : List Int) :
    ∀ (r n : Nat) (bits : List Bool) (s : State), 1 ≤ s.work.k →
    vs = cb0.toList.drop (s.work.k + r) → s.work.k + r ≤ 64 → 64 ≤ s.work.k + n →
    DecodedTo cb0 s.work.cb s.work.k →
    (∀ (i : Nat) (h : i < 64), s.work.k ≤ i → i < s.work.k + r → cb0[i] = 0) →
    acBits (s.image.ht .ac ta) r vs = some bits → s.reader.takeBits bits.length = some (bits, r') →
    ∃ k, 1 ≤ k ∧ k ≤ 64 ∧
      (decodeAcs ta n).run s = .ok () { s with reader := r', work := { s.work with cb := cb0, k := k } } := by
  induction vs with
  | nil =>
    intro r n bits s hlow hvs hle hfuel hdec hzero hbits htake
    have hend : s.work.k + r = 64 := by
      have := congrArg List.length hvs
      rw [List.length_drop, Vector.length_toList, List.length_nil] at this
      omega
    have hcb := (hdec.skip (Nat.le_add_right _ r) hzero).eq hend.ge
    rw [acBits] at hbits
    split at hbits
    · rename_i hr
      cases hbits
      cases htake
      refine ⟨s.work.k, hlow, by omega, ?_⟩
      rw [decodeAcs_run_done ta n (by omega), ← hcb]
    · obtain ⟨n, rfl⟩ : ∃ n', n = n' + 1 := ⟨n - 1, by omega⟩
      refine ⟨s.work.k, hlow, by omega, ?_⟩
      rw [decodeAcs_run_succ n (by omega) (decodeAc_run_eob hbits htake), if_pos rfl, ← hcb]
  | cons v vs ih =>
    intro r n bits s hlow hvs hle hfuel hdec hzero hbits htake
    have hindex : s.work.k + r < 64 := by
      have := congrArg List.length hvs
      rw [List.length_drop, Vector.length_toList, List.length_cons] at this
      omega
    have hdrop : cb0.toList.drop (s.work.k + r) = cb0[s.work.k + r] :: cb0.toList.drop (s.work.k + r + 1) := by
      rw [List.drop_eq_getElem_cons (by simpa using hindex), Vector.getElem_toList]
    obtain ⟨rfl, hvs'⟩ := List.cons.inj (hvs.trans hdrop)
    by_cases hv : cb0[s.work.k + r] = 0
    · rw [acBits, if_pos hv] at hbits
      refine ih (r + 1) n bits s hlow hvs' hindex hfuel hdec (fun i hi hki hir => ?_) hbits htake
      by_cases hlast : i = s.work.k + r
      · simpa only [hlast] using hv
      · exact hzero i hi hki (by omega)
    · obtain ⟨hsize, zrls, code, rest, hzrls, hcode, hrest, rfl⟩ := acBits_cons_of_ne hv hbits
      obtain ⟨r1, htakeZ, htakeV⟩ := Reader.takeBits_append htake
      obtain ⟨r2, htakeC, htakeR⟩ := Reader.takeBits_append htakeV
      obtain ⟨n, rfl⟩ : ∃ n', n = n' + 1 + r / 16 := ⟨n - 1 - r / 16, by omega⟩
      have hrun : (BitVec.ofNat 4 (r % 16)).toNat = r % 16 := by
        rw [BitVec.toNat_ofNat]
        omega
      have hsum : s.work.k + 16 * (r / 16) + (BitVec.ofNat 4 (r % 16)).toNat = s.work.k + r := by rw [hrun]; omega
      have hvalue := decodeAc_run_value
        (s := { s with reader := r1, work := { s.work with k := s.work.k + 16 * (r / 16) } })
        (run := BitVec.ofNat 4 (r % 16)) (by rw [hsum]; exact hindex) hv hsize hcode htakeC
      simp only [hsum] at hvalue
      obtain ⟨k, hk1, hk64, hloop⟩ := ih 0 n rest { s with
          reader := r2
          work := { s.work with cb := s.work.cb.set (s.work.k + r) cb0[s.work.k + r] hindex, k := s.work.k + r + 1 } }
        (Nat.le_add_left 1 _) hvs' hindex (by dsimp only; omega)
        ((hdec.skip (Nat.le_add_right _ r) hzero).store hindex)
        (fun i _ h1 h2 => absurd h1 (Nat.not_le.mpr h2)) hrest htakeR
      refine ⟨k, hk1, hk64, ?_⟩
      rw [decodeAcs_run_zrlBits hzrls (by omega) htakeZ, decodeAcs_run_succ n (by dsimp only; omega) hvalue, if_neg (by decide),
        hloop]

/-- The codes of a block are those of its difference and of its AC coefficients (spec R92). -/
theorem blockBits_eq_some {dc ac : HuffSlot} {pred : Int} {cb : Vector Int 64} {bits : List Bool}
    (h : blockBits dc ac pred cb = some bits) :
    ∃ d a, dcBits dc (cb[0] - pred) = some d ∧ acBits ac 0 cb.toList.tail = some a ∧ bits = d ++ a := by
  rw [blockBits] at h
  split at h
  · rename_i d a hd ha
    cases h
    exact ⟨d, a, hd, ha, rfl⟩
  · cases h

/-- `decode_block` behind its DC coefficient (spec R199). -/
theorem decodeBlock_run_of_ok {s u : State} {ci td ta : Slot} {x : Unit}
    (h : (decodeDc ci td).run { s with work := { s.work with cb := Vector.replicate 64 0 } } = .ok x u) :
    (decodeBlock ci td ta).run s = (decodeAcs ta 63).run { u with work := { u.work with k := 1 } } := by
  rw [decodeBlock, Proc.bind_run_ok (p := clearBlock) (modifyWork_run _ s), Proc.bind_run_ok h,
    Proc.bind_run_ok (p := firstAc) (modifyWork_run _ u)]

theorem decodeBlock_run_of_error {s u : State} {ci td ta : Slot} {e : Stop}
    (h : (decodeDc ci td).run { s with work := { s.work with cb := Vector.replicate 64 0 } } = .error e u) :
    (decodeBlock ci td ta).run s = .error e u := by
  rw [decodeBlock, Proc.bind_run_ok (p := clearBlock) (modifyWork_run _ s), Proc.bind_run_error h]

/-- `decode_block` reads the codes of a block (spec R199). -/
theorem decodeBlock_run_bits {s : State} {ci td ta : Slot} {cb : Vector Int 64} {bits : List Bool} {r : Reader}
    (hbits : blockBits (s.image.ht .dc td) (s.image.ht .ac ta) s.work.pred[ci] cb = some bits)
    (htake : s.reader.takeBits bits.length = some (bits, r)) :
    ∃ k, 1 ≤ k ∧ k ≤ 64 ∧ (decodeBlock ci td ta).run s = .ok () { s with
      reader := r, work := { s.work with cb := cb, k := k, pred := s.work.pred.set ci cb[0] } } := by
  obtain ⟨d, a, hd, ha, rfl⟩ := blockBits_eq_some hbits
  obtain ⟨r1, htakeD, htakeA⟩ := Reader.takeBits_append htake
  have hdc := decodeDc_run_bits (s := { s with work := { s.work with cb := Vector.replicate 64 0 } }) (ci := ci) hd htakeD
  dsimp only at hdc
  rw [show s.work.pred[ci] + (cb[0] - s.work.pred[ci]) = cb[0] by omega] at hdc
  have htail : cb.toList.tail = cb.toList.drop (1 + 0) := by rw [List.drop_one]
  have hfirst : DecodedTo cb ((Vector.replicate 64 0).set 0 cb[0]) (0 + 1) :=
    DecodedTo.store (fun i hi => by rw [Vector.getElem_replicate, if_neg (Nat.not_lt_zero i)]) (by decide)
  obtain ⟨k, hk1, hk64, hloop⟩ := decodeAcs_run_bits (cb0 := cb) (r' := r) cb.toList.tail 0 63 a { s with
      reader := r1
      work := { s.work with pred := s.work.pred.set ci cb[0], cb := (Vector.replicate 64 0).set 0 cb[0], k := 1 } }
    le_rfl htail (Nat.le_add_left 1 63) le_rfl hfirst (fun i _ h1 h2 => absurd h1 (Nat.not_le.mpr h2)) ha htakeA
  refine ⟨k, hk1, hk64, ?_⟩
  exact (decodeBlock_run_of_ok hdc).trans hloop

/-! `decode_block` as its rows run one after the other. -/

/-- The AC loop is `decode_ac` over and over (spec R199). -/
theorem acLoop_eq (ta : Slot) (n : Nat) : ∀ s : State, acLoop ta n s = runUnit (decodeAcs ta n) s := by
  induction n with
  | zero => exact fun s => rfl
  | succ n ih =>
    intro s
    rw [acLoop]
    split
    · rename_i hk
      exact (runUnit_ok (decodeAcs_run_done ta (n + 1) hk)).symm
    · rename_i hk
      have hle : s.work.k ≤ 63 := Nat.not_lt.mp hk
      rw [exec_decodeAc]
      cases h : (decodeAc ta).run s with
      | error e u =>
        have hloop : (decodeAcs ta (n + 1)).run s = .error e u := by
          rw [decodeAcs, Proc.get_bind_run, if_pos hle, Proc.bind_run_error h]
        have hnone : (takeStop e u).port.result = .none := by cases e <;> rfl
        rw [runProc_error _ h, runUnit_error hloop]
        dsimp only
        rw [hnone]
      | ok stop u =>
        have hresult : u.port.result = s.port.result := ((decodeAc_moves ta s).ok stop u h).result
        have hloop := decodeAcs_run_succ n hle h
        rw [runProc_ok _ h]
        cases stop with
        | true => exact (runUnit_ok hloop).symm
        | false =>
          rw [if_neg (by decide)] at hloop
          have hself : { u.returning (.bool false) with
              port := { (u.returning (.bool false)).port with result := s.port.result } } = u := by
            rw [← hresult]
            rfl
          show acLoop ta n { u.returning (.bool false) with
              port := { (u.returning (.bool false)).port with result := s.port.result } } = _
          rw [hself, ih, runUnit, runUnit, runProc, runProc, hloop]

theorem decodeBlock_of_decodeDc {s t : State} {ci td ta : Slot}
    (h : exec (.decodeDc ci td) { s with work := { s.work with cb := Vector.replicate 64 0 } } = .next t) :
    (t.status.phase ≠ s.status.phase → exec (.decodeBlock ci td ta) s = .next t) ∧
    (t.status.phase = s.status.phase → s.status.phase ≠ .failed → s.status.phase ≠ .refused →
      exec (.decodeBlock ci td ta) s =
        acLoop ta 63 { t with work := { t.work with k := 1 }, port := { t.port with result := s.port.result } }) := by
  rw [exec_decodeDc] at h
  rw [exec_decodeBlock, acLoop_eq]
  obtain ⟨_, u, hrun, rfl⟩ | ⟨e, u, hrun, rfl⟩ := runProc_cases h
  · have hscanned := (decodeDc_moves ci td _).ok _ u hrun
    have hresult : s.port.result = u.port.result := hscanned.result.symm
    refine ⟨fun hne => absurd (congrArg Status.phase hscanned.status) hne, fun _ _ _ => ?_⟩
    have hblock : (decodeBlock ci td ta).run s =
        (decodeAcs ta 63).run { u with work := { u.work with k := 1 } } := decodeBlock_run_of_ok hrun
    rw [runUnit, runUnit, runProc, runProc, hblock, hresult]
    rfl
  · refine ⟨fun _ => runUnit_error (decodeBlock_run_of_error hrun), fun hphase hfailed hrefused => ?_⟩
    · exact absurd hphase (takeStop_phase_ne e u s.status.phase hfailed hrefused)

/-- What `huff_decode` fails with, a procedure that begins with it fails with. -/
theorem failedWith_of_huffDecode {α : Type} {value : α → Value} {f : Byte → Proc α} {s t : State} {tc : TableClass} {th : Slot}
    {kind : ErrKind} (hphase : s.status.phase ≠ .failed) (h : exec (.huffDecode tc th) s = .next t)
    (hkind : t.failedWith kind) : ∃ u, runProc value (huffDecode tc th >>= f) s = .next u ∧ u.failedWith kind := by
  rw [exec_huffDecode] at h
  obtain ⟨sym, u, hrun, rfl⟩ | ⟨e, u, hrun, rfl⟩ := runProc_cases h
  · have hstatus : u.status = s.status := ((huffDecode_moves tc th s).ok sym u hrun).status
    exact absurd (hstatus ▸ hkind.1) hphase
  · exact ⟨takeStop e u, runProc_error value (Proc.bind_run_error hrun), hkind⟩

/-- Settles O42: each row on its code, and the block as the loop over its rows. -/
theorem decodeBlockReadsTheDataUnit : Obligations.DecodeBlockReadsTheDataUnit := by
  refine ⟨fun s ci td diff bits r hbits htake => ?_, fun s ta code r hcode htake => ?_,
    fun s ta code r hcode htake hk => ?_, fun s ta run v code r h hv hsize hcode htake => ?_,
    fun s ci td sym code r hcode htake => ⟨fun hsym => ?_, fun hsym hend => ?_⟩,
    fun s ta run sz code r hcode htake => ⟨fun hrun hsz hk => ?_, fun hwf => ⟨fun hover => ?_, fun h hend => ?_,
      fun h hsz => ?_⟩⟩,
    fun s t ci th kind hphase => ⟨failedWith_of_huffDecode hphase, failedWith_of_huffDecode hphase⟩,
    fun s t ci td ta h => decodeBlock_of_decodeDc h, fun s ci td ta cb bits r hbits htake => ?_⟩
  · rw [exec_decodeDc]
    exact runUnit_ok (decodeDc_run_bits hbits htake)
  · rw [exec_decodeAc]
    exact runProc_ok _ (decodeAc_run_eob hcode htake)
  · rw [exec_decodeAc]
    exact runProc_ok _ (decodeAc_run_zrl hcode htake hk)
  · rw [exec_decodeAc]
    refine runProc_ok _ (decodeAc_run_value h hv hsize hcode ?_)
    rwa [List.length_append, length_natToBits]
  · rw [exec_decodeDc]
    refine runProc_refused (s' := { s with reader := r }) _ ((decodeDc_run_symbol hcode htake).trans ?_)
    rw [dif_neg (Nat.not_lt.mpr hsym)]
    rfl
  · obtain ⟨s', hrun⟩ := dcSizeRule_run_end (s := { s with reader := r }) ci (n := ⟨sym.toNat, hsym⟩) hend
    rw [exec_decodeDc]
    have hdc := decodeDc_run_symbol (ci := ci) hcode htake
    rw [dif_pos hsym] at hdc
    exact runUnit_raised (hdc.trans hrun)
  · subst hrun
    subst hsz
    rw [exec_decodeAc]
    have hsymbol : nibbles 15 0 = 0xF0 := rfl
    refine runProc_refused (s' := { s with reader := r }) _ ((decodeAc_run_symbol hcode htake).trans ?_)
    rw [hsymbol, if_neg (by decide), if_pos rfl, zrlRule_run, if_neg (Nat.not_le.mpr hk)]
  · rw [exec_decodeAc]
    exact runProc_refused _ ((decodeAc_run_runSize hwf hcode htake).trans (acRunSizeRule_run_over sz hover))
  · obtain ⟨s', hrun⟩ := acRunSizeRule_run_end (s := { s with reader := r }) h hend
    rw [exec_decodeAc]
    exact runProc_raised _ ((decodeAc_run_runSize hwf hcode htake).trans hrun)
  · subst hsz
    rw [exec_decodeAc]
    exact runProc_ok _ ((decodeAc_run_runSize hwf hcode htake).trans
      (acRunSizeRule_run (s := { s with reader := r }) (sz := 0) (bits := []) h rfl))
  · obtain ⟨k, hk1, hk64, hrun⟩ := decodeBlock_run_bits hbits htake
    refine ⟨k, hk1, hk64, ?_⟩
    rw [exec_decodeBlock]
    exact runUnit_ok hrun

end Sys2Proof.Machine
end

section
/-! PROOFS of the encoder: a data unit (spec R92, R164, R251 to R255). -/

namespace Sys2Proof.Machine

theorem exec_encodeDc (ci td : Slot) (s : State) : exec (.encodeDc ci td) s = runUnit (encodeDc ci td) s := by rfl
theorem exec_encodeAc (ta : Slot) (s : State) : exec (.encodeAc ta) s = runUnit (encodeAc ta) s := by rfl
theorem exec_encodeBlock (ci td ta : Slot) (s : State) :
    exec (.encodeBlock ci td ta) s = runUnit (encodeBlock ci td ta) s := by rfl

/-- The state after these bits were written (spec R142). -/
def State.wrote (s : State) (bits : List Bool) : State := { s with writer := bits.foldl Writer.writeBit s.writer }

theorem State.wrote_wrote (s : State) (a b : List Bool) : (s.wrote a).wrote b = s.wrote (a ++ b) := by
  rw [State.wrote, State.wrote, State.wrote, List.foldl_append]

theorem writeBits_run_of_le {value n : Nat} (hn : n ≤ 16) (s : State) :
    (writeBits value n).run s = .ok () (s.wrote (natToBits value n)) := by
  rw [writeBits_run, if_neg (Nat.not_lt.mpr hn)]
  rfl

/-! `huff_encode`. -/

theorem huffEncode_run_code {s : State} {tc : TableClass} {th : Slot} {sym : Byte} {code : List Bool}
    (h : (s.image.ht tc th).codeOf sym = some code) : (huffEncode tc th sym).run s = .ok () (s.wrote code) := by
  obtain ⟨table, e, hslot, hprefix, he, hfind, -, rfl⟩ := HuffSlot.exists_of_codeOf h
  rw [huffEncode, Proc.get_bind_run, Proc.bind_run_ok (hslot s), hfind]
  exact writeBits_run_of_le (hprefix.len_bounds e he).2 s

/-- The table of a slot lacks a symbol without a code word. -/
theorem HuffSlot.find?_of_codeOf_none {slot : HuffSlot} {sym : Byte} (h : slot.codeOf sym = none) {s t : State}
    {table : CodeTable} (htable : (slotCodes slot).run s = .ok table t) :
    t = s ∧ table.find? (fun e => e.2 == sym) = none := by
  rw [slotCodes_run] at htable
  rw [HuffSlot.codeOf] at h
  split at htable
  · rename_i hvalid
    rw [if_pos hvalid] at h
    split at htable <;> cases htable
    rename_i cs hcs
    rw [hcs, Option.map_eq_none_iff] at h
    exact ⟨rfl, h⟩
  · cases htable
    exact ⟨rfl, rfl⟩

/-- A symbol without a code word is not written (spec R164). -/
theorem huffEncode_run_none {s : State} {tc : TableClass} {th : Slot} {sym : Byte}
    (h : (s.image.ht tc th).codeOf sym = none) :
    ∃ e, (huffEncode tc th sym).run s = .error e s ∧
      ((s.image.ht tc th).ok = true → e = .raised .invalidHuffmanCode s.work.mcu) := by
  rw [huffEncode, Proc.get_bind_run]
  cases hslot : (slotCodes (s.image.ht tc th)).run s with
  | ok table t =>
    obtain ⟨rfl, hfind⟩ := HuffSlot.find?_of_codeOf_none h hslot
    rw [Proc.bind_run_ok hslot, hfind]
    exact ⟨_, rfl, fun _ => rfl⟩
  | error e t =>
    have hrun := slotCodes_run (s.image.ht tc th) s
    rw [hslot] at hrun
    split at hrun
    · rename_i hvalid
      split at hrun <;> cases hrun
      rename_i hnone
      refine ⟨_, Proc.bind_run_error hslot, fun hok => ?_⟩
      obtain ⟨cs, hcs, -⟩ := HuffSlot.exists_codes_of_ok hvalid hok
      rw [hcs] at hnone
      cases hnone
    · cases hrun

/-! The DC coefficient. -/

/-- The sizes, by the ranges of values (spec R252). -/
theorem size_le_iff (v : Int) (n : Nat) : size v ≤ n ↔ v.natAbs < 2 ^ n := by
  by_cases hv : v = 0
  · subst hv
    simp [size, bitlen]
  · obtain ⟨hpos, hlow, hhigh⟩ := size_bounds hv
    constructor
    · exact fun h => hhigh.trans_le (Nat.pow_le_pow_right (by decide) h)
    · intro h
      by_contra hlt
      have hmono : 2 ^ n ≤ 2 ^ (size v - 1) := Nat.pow_le_pow_right (by decide) (by omega)
      omega

/-- `encode_dc` after the predictor is set (spec R252). -/
theorem encodeDc_run (ci td : Slot) (s : State) :
    (encodeDc ci td).run s =
      (if Config.dcSizeMax < size (s.work.cb[0] - s.work.pred[ci]) then refuse .dcDiffOutOfRange
        else do
          huffEncode .dc td (BitVec.ofNat 8 (size (s.work.cb[0] - s.work.pred[ci])))
          writeBits (magbits (s.work.cb[0] - s.work.pred[ci]) (size (s.work.cb[0] - s.work.pred[ci])))
            (size (s.work.cb[0] - s.work.pred[ci])) : Proc Unit).run
        { s with work := { s.work with pred := s.work.pred.set ci s.work.cb[0] } } := by
  rw [encodeDc, Proc.get_bind_run]
  dsimp only
  rw [Proc.bind_run_ok (modifyWork_run _ s)]

theorem encodeDc_run_bits {s : State} {ci td : Slot} {bits : List Bool}
    (h : dcBits (s.image.ht .dc td) (s.work.cb[0] - s.work.pred[ci]) = some bits) :
    (encodeDc ci td).run s =
      .ok () ({ s with work := { s.work with pred := s.work.pred.set ci s.work.cb[0] } }.wrote bits) := by
  rw [dcBits] at h
  split at h
  · rename_i hsize
    obtain ⟨code, hcode, rfl⟩ := Option.map_eq_some_iff.mp h
    have hhuff := huffEncode_run_code (s := { s with work := { s.work with pred := s.work.pred.set ci s.work.cb[0] } }) hcode
    rw [encodeDc_run, if_neg (Nat.not_lt.mpr hsize), Proc.bind_run_ok hhuff, writeBits_run_of_le (hsize.trans (by decide)),
      State.wrote_wrote]
  · cases h

theorem encodeDc_run_none {s : State} {ci td : Slot}
    (h : dcBits (s.image.ht .dc td) (s.work.cb[0] - s.work.pred[ci]) = none) :
    ∃ e u, (encodeDc ci td).run s = .error e u := by
  rw [dcBits] at h
  rw [encodeDc_run]
  split at h
  · rename_i hsize
    obtain ⟨e, hrun, -⟩ := huffEncode_run_none
      (s := { s with work := { s.work with pred := s.work.pred.set ci s.work.cb[0] } }) (Option.map_eq_none_iff.mp h)
    rw [if_neg (Nat.not_lt.mpr hsize)]
    exact ⟨e, _, Proc.bind_run_error hrun⟩
  · rename_i hsize
    rw [if_pos (Nat.not_le.mp hsize)]
    exact ⟨_, _, refuse_run _ _⟩

/-! The AC coefficients. -/

theorem emitZrls_run {ta : Slot} {code : List Bool} (n : Nat) : ∀ s : State, (s.image.ht .ac ta).codeOf 0xF0 = some code →
    (emitZrls ta n).run s = .ok () (s.wrote (List.replicate n code).flatten) := by
  induction n with
  | zero => exact fun s _ => rfl
  | succ n ih =>
    intro s h
    rw [emitZrls, Proc.bind_run_ok (huffEncode_run_code h), ih (s.wrote code) h, State.wrote_wrote]
    rfl

/-- `n` ZRL symbols, written or not (spec R255). -/
theorem emitZrls_run_bits {s : State} {ta : Slot} {n : Nat} {zrls : List Bool}
    (h : zrlBits (s.image.ht .ac ta) n = some zrls) : (emitZrls ta n).run s = .ok () (s.wrote zrls) := by
  obtain ⟨rfl, rfl⟩ | ⟨code, hcode, rfl⟩ := zrlBits_eq_some h
  · rfl
  · exact emitZrls_run n s hcode

theorem emitZrls_run_none {s : State} {ta : Slot} {n : Nat} (h : zrlBits (s.image.ht .ac ta) n = none) :
    ∃ e, (emitZrls ta n).run s = .error e s ∧
      ((s.image.ht .ac ta).ok = true → e = .raised .invalidHuffmanCode s.work.mcu) := by
  rw [zrlBits] at h
  split at h
  · cases h
  · rename_i hn
    obtain ⟨n, rfl⟩ := Nat.exists_eq_succ_of_ne_zero hn
    obtain ⟨e, hrun, hok⟩ := huffEncode_run_none (Option.map_eq_none_iff.mp h)
    exact ⟨e, Proc.bind_run_error hrun, hok⟩

/-- One index of the AC loop (spec R255). -/
theorem encodeAcFrom_run_succ (ta : Slot) (k r n : Nat) (s : State) :
    (encodeAcFrom ta k r (n + 1)).run s =
      (if s.work.cb.toList.getD k 0 = 0 then encodeAcFrom ta (k + 1) (r + 1) n
        else do
          emitZrls ta (r / 16)
          if Config.acSizeMax < size (s.work.cb.toList.getD k 0) then refuse .acMagnitudeOutOfRange
          else do
            huffEncode .ac ta
              (nibbles (BitVec.ofNat 4 (r % 16)) (BitVec.ofNat 4 (size (s.work.cb.toList.getD k 0))))
            writeBits (magbits (s.work.cb.toList.getD k 0) (size (s.work.cb.toList.getD k 0)))
              (size (s.work.cb.toList.getD k 0))
            encodeAcFrom ta (k + 1) 0 n : Proc Nat).run { s with work := { s.work with k := k } } := by
  rw [encodeAcFrom, Proc.bind_run_ok (modifyWork_run _ s), Proc.get_bind_run]

theorem getD_of_drop_eq_cons {xs ys : List Int} {k : Nat} {v : Int} (h : xs.drop k = v :: ys) :
    xs.getD k 0 = v ∧ xs.drop (k + 1) = ys := by
  have hget : xs[k]? = some v := by rw [← Nat.add_zero k, ← List.getElem?_drop, h]; rfl
  refine ⟨by rw [List.getD_eq_getElem?_getD, hget]; rfl, ?_⟩
  rw [← List.drop_drop, h]
  rfl

/-- Behind a run of coefficients that can be coded the AC loop goes on with the next one (spec R255). -/
theorem encodeAcFrom_run_append {ta : Slot} (before : List Int) : ∀ (k r m r' : Nat) (bits : List Bool) (after : List Int)
    (s : State), s.work.cb.toList.drop k = before ++ after →
    acRunBits (s.image.ht .ac ta) r before = some (bits, r') →
    ∃ k', (encodeAcFrom ta k r (before.length + m)).run s =
      (encodeAcFrom ta (k + before.length) r' m).run ({ s with work := { s.work with k := k' } }.wrote bits) := by
  induction before with
  | nil =>
    intro k r m r' bits after s _ hbits
    obtain ⟨rfl, rfl⟩ := Prod.mk.inj (Option.some.inj hbits)
    exact ⟨s.work.k, by rw [List.length_nil, Nat.zero_add]; rfl⟩
  | cons v before ih =>
    intro k r m r' bits after s hdrop hbits
    rw [List.cons_append] at hdrop
    obtain ⟨hget, hrest⟩ := getD_of_drop_eq_cons hdrop
    have hlen : (v :: before).length + m = before.length + m + 1 := by rw [List.length_cons]; omega
    have hindex : k + (v :: before).length = k + 1 + before.length := by rw [List.length_cons]; omega
    rw [hlen, hindex, encodeAcFrom_run_succ, hget]
    rw [acRunBits] at hbits
    by_cases hv : v = 0
    · rw [if_pos hv] at hbits
      rw [if_pos hv]
      obtain ⟨k', hrun⟩ := ih (k + 1) (r + 1) m r' bits after { s with work := { s.work with k := k } } hrest hbits
      exact ⟨k', hrun⟩
    · rw [if_neg hv] at hbits
      rw [if_neg hv]
      split at hbits
      · rename_i hsize
        split at hbits
        · rename_i zrls code rest r'' hzrls hcode hmore
          obtain ⟨rfl, rfl⟩ := Prod.mk.inj (Option.some.inj hbits)
          obtain ⟨k', hrun⟩ := ih (k + 1) 0 m _ rest after
            (((({ s with work := { s.work with k := k } } : State).wrote zrls).wrote code).wrote
              (natToBits (magbits v (size v)) (size v))) hrest hmore
          have hz := emitZrls_run_bits (s := { s with work := { s.work with k := k } }) hzrls
          have hc := huffEncode_run_code (s := ({ s with work := { s.work with k := k } } : State).wrote zrls) hcode
          refine ⟨k', ?_⟩
          rw [Proc.bind_run_ok hz, if_neg (Nat.not_lt.mpr hsize), Proc.bind_run_ok hc,
            Proc.bind_run_ok (writeBits_run_of_le (hsize.trans (by decide)) _), hrun]
          simp only [State.wrote, List.foldl_append]
        · cases hbits
      · cases hbits

/-- The codes of the AC coefficients are those of the run to the last one that is not 0, and the end of the block. -/
theorem acBits_eq (slot : HuffSlot) (vs : List Int) : ∀ r : Nat,
    acBits slot r vs = (acRunBits slot r vs).bind fun p =>
      if p.2 = 0 then some p.1 else (slot.codeOf 0x00).map fun eob => p.1 ++ eob := by
  induction vs with
  | nil =>
    intro r
    rw [acBits, acRunBits, Option.bind_some]
    split
    · rfl
    · cases slot.codeOf 0x00 <;> rfl
  | cons v vs ih =>
    intro r
    rw [acBits, acRunBits]
    split
    · exact ih (r + 1)
    · split
      · rw [ih 0]
        cases zrlBits slot (r / 16) with
        | none => rfl
        | some zrls =>
          cases slot.codeOf (nibbles (BitVec.ofNat 4 (r % 16)) (BitVec.ofNat 4 (size v))) with
          | none => rfl
          | some code =>
            cases acRunBits slot 0 vs with
            | none => rfl
            | some p =>
              obtain ⟨rest, r'⟩ := p
              simp only [Option.bind_some]
              by_cases hr : r' = 0
              · simp only [if_pos hr]
              · simp only [if_neg hr]
                cases slot.codeOf 0x00 with
                | none => rfl
                | some eob => simp only [Option.map_some, List.append_assoc]
      · rfl

/-- The AC loop over the whole block. -/
theorem encodeAcFrom_run_all {s : State} {ta : Slot} {bits : List Bool} {r : Nat}
    (h : acRunBits (s.image.ht .ac ta) 0 s.work.cb.toList.tail = some (bits, r)) :
    ∃ k, (encodeAcFrom ta 1 0 63).run s = .ok r ({ s with work := { s.work with k := k } }.wrote bits) := by
  have hdrop : s.work.cb.toList.drop 1 = s.work.cb.toList.tail ++ [] := by rw [List.append_nil, List.drop_one]
  have hlen : s.work.cb.toList.tail.length = 63 := by rw [List.length_tail, Vector.length_toList]
  obtain ⟨k', hrun⟩ := encodeAcFrom_run_append s.work.cb.toList.tail 1 0 0 r bits [] s hdrop h
  rw [hlen] at hrun
  refine ⟨1 + 63, hrun.trans ?_⟩
  rw [encodeAcFrom, Proc.bind_run_ok (modifyWork_run _ _)]
  rfl

theorem encodeAc_run_bits {s : State} {ta : Slot} {bits : List Bool}
    (h : acBits (s.image.ht .ac ta) 0 s.work.cb.toList.tail = some bits) :
    ∃ k, (encodeAc ta).run s = .ok () ({ s with work := { s.work with k := k } }.wrote bits) := by
  rw [acBits_eq] at h
  obtain ⟨⟨init, r⟩, hinit, hend⟩ := Option.bind_eq_some_iff.mp h
  obtain ⟨k, hloop⟩ := encodeAcFrom_run_all hinit
  refine ⟨k, ?_⟩
  rw [encodeAc, Proc.bind_run_ok hloop]
  dsimp only at hend
  split at hend
  · rename_i hr
    cases hend
    rw [if_neg (by omega)]
    rfl
  · rename_i hr
    obtain ⟨eob, heob, rfl⟩ := Option.map_eq_some_iff.mp hend
    rw [if_pos (Nat.pos_of_ne_zero hr), ← State.wrote_wrote]
    exact huffEncode_run_code heob

/-- Where a coefficient or the end of the block cannot be coded, `encode_ac` stops. -/
theorem encodeAc_run_at {s : State} {ta : Slot} {before after : List Int} {v : Int} {bits : List Bool} {r : Nat}
    (hcb : s.work.cb.toList.tail = before ++ v :: after) (hv : v ≠ 0)
    (hbits : acRunBits (s.image.ht .ac ta) 0 before = some (bits, r)) :
    ∃ k, ∀ e u, (emitZrls ta (r / 16) >>= fun _ =>
        if Config.acSizeMax < size v then refuse .acMagnitudeOutOfRange
        else huffEncode .ac ta (nibbles (BitVec.ofNat 4 (r % 16)) (BitVec.ofNat 4 (size v))) : Proc Unit).run
          ({ s with work := { s.work with k := k } }.wrote bits) = .error e u →
      (encodeAc ta).run s = .error e u := by
  have hdrop : s.work.cb.toList.drop 1 = before ++ (v :: after) := by rw [List.drop_one, hcb]
  have hlen : before.length + (after.length + 1) = 63 := by
    have := congrArg List.length hcb
    rw [List.length_tail, Vector.length_toList, List.length_append, List.length_cons] at this
    omega
  obtain ⟨k', hrun⟩ := encodeAcFrom_run_append before 1 0 (after.length + 1) r bits (v :: after) s hdrop hbits
  have hat :
      (({ s with work := { s.work with k := k' } } : State).wrote bits).work.cb.toList.getD (1 + before.length) 0 = v := by
    refine (getD_of_drop_eq_cons (ys := after) ?_).1
    show s.work.cb.toList.drop (1 + before.length) = _
    rw [← List.drop_drop, hdrop, List.drop_left]
  have hstep := encodeAcFrom_run_succ ta (1 + before.length) r after.length
    (({ s with work := { s.work with k := k' } } : State).wrote bits)
  rw [hat, if_neg hv] at hstep
  rw [hlen] at hrun
  refine ⟨1 + before.length, fun e u herror => Proc.bind_run_error (hrun.trans (hstep.trans ?_))⟩
  rw [Proc.bind_run] at herror ⊢
  have hstate : { ({ s with work := { s.work with k := k' } } : State).wrote bits with
      work := { (({ s with work := { s.work with k := k' } } : State).wrote bits).work with k := 1 + before.length } } =
      ({ s with work := { s.work with k := 1 + before.length } } : State).wrote bits := rfl
  rw [hstate]
  cases hz : (emitZrls ta (r / 16)).run (({ s with work := { s.work with k := 1 + before.length } } : State).wrote bits) with
  | error e' u' =>
    rw [hz] at herror
    cases herror
    rfl
  | ok x u' =>
    rw [hz] at herror
    dsimp only at herror ⊢
    split_ifs at herror ⊢ with hsize
    · cases herror
      rfl
    · exact Proc.bind_run_error herror

/-! Two runs of the encoder side by side. -/

/-- Two states that agree in what the encoder reads and writes, the working registers by a relation. -/
structure Agree (W : Work → Work → Prop) (s1 s2 : State) : Prop where
  image : s1.image = s2.image
  writer : s1.writer = s2.writer
  cancel : s1.port.cancel = s2.port.cancel
  work : W s1.work s2.work

/-- Two procedures end alike: both ok with one value, or both with one stop. -/
def Alike {α : Type} (V W : Work → Work → Prop) (p1 p2 : Proc α) (s1 s2 : State) : Prop :=
  (∃ a t1 t2, p1.run s1 = .ok a t1 ∧ p2.run s2 = .ok a t2 ∧ Agree W t1 t2) ∨
  (∃ e t1 t2, p1.run s1 = .error e t1 ∧ p2.run s2 = .error e t2 ∧ Agree V t1 t2)

namespace Alike

variable {α β : Type} {V W W' : Work → Work → Prop} {p1 p2 : Proc α} {f1 f2 : α → Proc β} {s1 s2 : State}

theorem bind (hp : Alike V W p1 p2 s1 s2) (hf : ∀ a t1 t2, Agree W t1 t2 → Alike V W' (f1 a) (f2 a) t1 t2) :
    Alike V W' (p1 >>= f1) (p2 >>= f2) s1 s2 := by
  obtain ⟨a, t1, t2, h1, h2, hagree⟩ | ⟨e, t1, t2, h1, h2, hagree⟩ := hp
  · obtain ⟨b, u1, u2, g1, g2, hagree'⟩ | ⟨e, u1, u2, g1, g2, hagree'⟩ := hf a t1 t2 hagree
    · exact .inl ⟨b, u1, u2, (Proc.bind_run_ok h1).trans g1, (Proc.bind_run_ok h2).trans g2, hagree'⟩
    · exact .inr ⟨e, u1, u2, (Proc.bind_run_ok h1).trans g1, (Proc.bind_run_ok h2).trans g2, hagree'⟩
  · exact .inr ⟨e, t1, t2, Proc.bind_run_error h1, Proc.bind_run_error h2, hagree⟩

theorem get_bind {g1 g2 : State → Proc β} (h : Alike V W (g1 s1) (g2 s2) s1 s2) :
    Alike V W (get >>= g1 : Proc β) (get >>= g2) s1 s2 := h

theorem pure (a : α) (h : Agree W s1 s2) : Alike V W (pure a : Proc α) (Pure.pure a) s1 s2 := .inl ⟨a, s1, s2, rfl, rfl, h⟩

theorem raise {kind : ErrKind} {pos : Nat} (h : Agree V s1 s2) :
    Alike V W (Machine.raise kind pos : Proc α) (Machine.raise kind pos) s1 s2 := .inr ⟨_, s1, s2, rfl, rfl, h⟩

theorem refuse {reason : Reason} (h : Agree V s1 s2) :
    Alike V W (Machine.refuse reason : Proc α) (Machine.refuse reason) s1 s2 := .inr ⟨_, s1, s2, rfl, rfl, h⟩

theorem modifyWork {f1 f2 : Work → Work} (h : Agree W s1 s2) (hf : W' (f1 s1.work) (f2 s2.work)) :
    Alike V W' (Machine.modifyWork f1) (Machine.modifyWork f2) s1 s2 :=
  .inl ⟨(), _, _, rfl, rfl, h.image, h.writer, h.cancel, hf⟩

theorem modifyWriter {f : Writer → Writer} (h : Agree W s1 s2) :
    Alike V W (Machine.modifyWriter f) (Machine.modifyWriter f) s1 s2 :=
  .inl ⟨(), _, _, rfl, rfl, h.image, congrArg f h.writer, h.cancel, h.work⟩

theorem ite {c : Prop} [Decidable c] {q1 q2 : Proc α} (hp : c → Alike V W p1 p2 s1 s2) (hq : ¬ c → Alike V W q1 q2 s1 s2) :
    Alike V W (if c then p1 else q1) (if c then p2 else q2) s1 s2 := by
  split
  · exact hp ‹_›
  · exact hq ‹_›

end Alike

/-- A relation of working registers that the coding of a block needs and keeps. -/
structure BlockAlike (V W : Work → Work → Prop) : Prop where
  stop : ∀ {w1 w2}, W w1 w2 → V w1 w2
  mcu : ∀ {w1 w2}, W w1 w2 → w1.mcu = w2.mcu
  cb : ∀ {w1 w2}, W w1 w2 → w1.cb = w2.cb
  pred : ∀ {w1 w2}, W w1 w2 → w1.pred = w2.pred
  setK : ∀ {w1 w2} (k : Nat), W w1 w2 → W { w1 with k := k } { w2 with k := k }
  setPred : ∀ {w1 w2} (p : Vector Int 4), W w1 w2 → W { w1 with pred := p } { w2 with pred := p }

section
variable {V W : Work → Work → Prop} (hW : BlockAlike V W) {s1 s2 : State}
include hW

theorem Agree.toStop (h : Agree W s1 s2) : Agree V s1 s2 := ⟨h.image, h.writer, h.cancel, hW.stop h.work⟩

theorem writeBits_alike (value n : Nat) (h : Agree W s1 s2) : Alike V W (writeBits value n) (writeBits value n) s1 s2 :=
  .ite (fun _ => .refuse (h.toStop hW)) fun _ => .modifyWriter h

theorem slotCodes_alike (slot : HuffSlot) (h : Agree W s1 s2) : Alike V W (slotCodes slot) (slotCodes slot) s1 s2 := by
  have h1 := slotCodes_run slot s1
  have h2 := slotCodes_run slot s2
  split at h1
  · rw [if_pos ‹_›] at h2
    split at h1 <;> rename_i hcs <;> rw [hcs] at h2
    · exact .inl ⟨_, s1, s2, h1, h2, h⟩
    · exact .inr ⟨_, s1, s2, h1, h2, h.toStop hW⟩
  · rw [if_neg ‹_›] at h2
    exact .inl ⟨_, s1, s2, h1, h2, h⟩

theorem huffEncode_alike (tc : TableClass) (th : Slot) (sym : Byte) (h : Agree W s1 s2) :
    Alike V W (huffEncode tc th sym) (huffEncode tc th sym) s1 s2 := by
  refine .get_bind ?_
  rw [h.image]
  refine .bind (slotCodes_alike hW _ h) fun table t1 t2 ht => ?_
  split
  · refine .get_bind ?_
    rw [hW.mcu ht.work]
    exact .raise (ht.toStop hW)
  · exact writeBits_alike hW _ _ ht

theorem emitZrls_alike (ta : Slot) (n : Nat) : ∀ {s1 s2 : State}, Agree W s1 s2 →
    Alike V W (emitZrls ta n) (emitZrls ta n) s1 s2 := by
  induction n with
  | zero => exact fun h => .pure () h
  | succ n ih => exact fun h => .bind (huffEncode_alike hW _ _ _ h) fun _ _ _ ht => ih ht

theorem encodeAcFrom_alike (ta : Slot) (n : Nat) : ∀ (k r : Nat) {s1 s2 : State}, Agree W s1 s2 →
    Alike V W (encodeAcFrom ta k r n) (encodeAcFrom ta k r n) s1 s2 := by
  induction n with
  | zero => exact fun k r _ _ h => .bind (.modifyWork h (hW.setK k h.work)) fun _ _ _ ht => .pure r ht
  | succ n ih =>
    intro k r s1 s2 h
    refine .bind (.modifyWork h (hW.setK k h.work)) fun _ t1 t2 ht => .get_bind ?_
    rw [hW.cb ht.work]
    refine .ite (fun _ => ih _ _ ht) fun _ => .bind (emitZrls_alike hW ta _ ht) fun _ u1 u2 hu =>
      .ite (fun _ => .refuse (hu.toStop hW)) fun _ => .bind (huffEncode_alike hW _ _ _ hu) fun _ v1 v2 hv =>
        .bind (writeBits_alike hW _ _ hv) fun _ w1 w2 hw => ih _ _ hw

theorem encodeAc_alike (ta : Slot) (h : Agree W s1 s2) : Alike V W (encodeAc ta) (encodeAc ta) s1 s2 :=
  .bind (encodeAcFrom_alike hW ta 63 1 0 h) fun _ _ _ ht =>
    .ite (fun _ => huffEncode_alike hW _ _ _ ht) fun _ => .pure () ht

theorem encodeDc_alike (ci td : Slot) (h : Agree W s1 s2) : Alike V W (encodeDc ci td) (encodeDc ci td) s1 s2 := by
  refine .get_bind ?_
  dsimp only
  rw [hW.cb h.work, hW.pred h.work]
  refine .bind (.modifyWork h ?_) fun _ t1 t2 ht => .ite (fun _ => .refuse (ht.toStop hW)) fun _ =>
    .bind (huffEncode_alike hW _ _ _ ht) fun _ u1 u2 hu => writeBits_alike hW _ _ hu
  have heq : s1.work.pred.set ci s1.work.cb[0] = s2.work.pred.set ci s2.work.cb[0] := by rw [hW.cb h.work, hW.pred h.work]
  rw [heq]
  exact hW.setPred _ h.work

theorem encodeBlock_alike (ci td ta : Slot) (h : Agree W s1 s2) :
    Alike V W (encodeBlock ci td ta) (encodeBlock ci td ta) s1 s2 :=
  .bind (encodeDc_alike hW ci td h) fun _ _ _ ht => encodeAc_alike hW ta ht

end

theorem blockAlike_eq : BlockAlike Eq Eq where
  stop := id
  mcu := congrArg _
  cb := congrArg _
  pred := congrArg _
  setK _ h := by rw [h]
  setPred _ h := by rw [h]

/-- What a state holds is the parts the encoder keeps, and those it writes. -/
theorem State.eq_of_agree {s1 s2 t1 t2 : State} (h1 : Coded s1 t1) (h2 : Coded s2 t2) (h : Agree Eq t1 t2) {v : Value}
    (hs : s2 = s1.returning v) : t2.returning .none = t1.returning .none := by
  subst hs
  obtain ⟨r1, w1, k1, st1, im1, wk1, ⟨rq1, c1, v1⟩, a1⟩ := t1
  obtain ⟨r2, w2, k2, st2, im2, wk2, ⟨rq2, c2, v2⟩, a2⟩ := t2
  obtain ⟨himage, hwriter, hcancel, hwork⟩ := h
  have hreader := h2.reader.trans h1.reader.symm
  have hstatus := h2.status.trans h1.status.symm
  have hwalk := h2.walk.trans h1.walk.symm
  have hagent := h2.agent.trans h1.agent.symm
  have hrequests := h2.requests.trans h1.requests.symm
  dsimp only at himage hwriter hcancel hwork hreader hstatus hwalk hagent hrequests
  subst himage hwriter hcancel hwork hreader hstatus hwalk hagent hrequests
  rfl

theorem takeStop_returning (e : Stop) (s : State) (v : Value) : takeStop e (s.returning v) = takeStop e s := by
  cases e <;> rfl

/-- `encode_ac` does not look at the value the last procedure returned. -/
theorem exec_encodeAc_returning (ta : Slot) (s : State) (v : Value) :
    exec (.encodeAc ta) (s.returning v) = exec (.encodeAc ta) s := by
  rw [exec_encodeAc, exec_encodeAc]
  obtain ⟨_, t1, t2, h1, h2, hagree⟩ | ⟨e, t1, t2, h1, h2, hagree⟩ :=
    encodeAc_alike blockAlike_eq (s1 := s) (s2 := s.returning v) ta ⟨rfl, rfl, rfl, rfl⟩
  · rw [runUnit_ok h1, runUnit_ok h2]
    have heq := State.eq_of_agree ((encodeAc_coded ta s).ok _ _ h1) ((encodeAc_coded ta _).ok _ _ h2) hagree rfl
    exact congrArg _ heq
  · have heq := State.eq_of_agree ((encodeAc_coded ta s).error _ _ h1).1 ((encodeAc_coded ta _).error _ _ h2).1 hagree rfl
    rw [runUnit_error h1, runUnit_error h2, ← takeStop_returning e t1 .none, ← takeStop_returning e t2 .none, heq]

theorem encodeBlock_run_bits {s : State} {ci td ta : Slot} {bits : List Bool}
    (h : blockBits (s.image.ht .dc td) (s.image.ht .ac ta) s.work.pred[ci] s.work.cb = some bits) :
    ∃ k, (encodeBlock ci td ta).run s = .ok ()
      ({ s with work := { s.work with k := k, pred := s.work.pred.set ci s.work.cb[0] } }.wrote bits) := by
  obtain ⟨d, a, hd, ha, rfl⟩ := blockBits_eq_some h
  obtain ⟨k, hac⟩ := encodeAc_run_bits (ta := ta)
    (s := ({ s with work := { s.work with pred := s.work.pred.set ci s.work.cb[0] } } : State).wrote d) ha
  refine ⟨k, ?_⟩
  rw [encodeBlock, Proc.bind_run_ok (encodeDc_run_bits hd), hac, ← State.wrote_wrote]
  rfl

/-- Settles O43: each procedure on the bits it writes, and where it stops. -/
theorem encodeBlockWritesTheDataUnit : Obligations.EncodeBlockWritesTheDataUnit := by
  refine ⟨fun s ci td bits h => ?_, fun s ci td h => ?_, fun s ci td hsmall hok hnone => ?_, fun s ta bits h => ?_,
    fun s ta before after v bits r hcb hv hbits => ?_, fun s ta bits r hok hbits hr hnone => ?_,
    fun s ci td ta bits h => ?_, fun s t ci td ta h => ⟨fun hsome => ?_, fun hnone => ?_⟩⟩
  · rw [exec_encodeDc]
    exact runUnit_ok (encodeDc_run_bits h)
  · rw [exec_encodeDc]
    have hsize : Config.dcSizeMax < size (s.work.cb[0] - s.work.pred[ci]) :=
      Nat.not_le.mp (mt (size_le_iff _ 11).mp (Nat.not_lt.mpr h))
    refine runProc_refused (s' := { s with work := { s.work with pred := s.work.pred.set ci s.work.cb[0] } }) _ ?_
    rw [encodeDc_run, if_pos hsize, refuse_run]
  · rw [exec_encodeDc]
    have hsize : ¬ Config.dcSizeMax < size (s.work.cb[0] - s.work.pred[ci]) :=
      Nat.not_lt.mpr ((size_le_iff _ 11).mpr hsmall)
    obtain ⟨e, hrun, hkind⟩ := huffEncode_run_none
      (s := { s with work := { s.work with pred := s.work.pred.set ci s.work.cb[0] } }) hnone
    have hdc := encodeDc_run ci td s
    rw [if_neg hsize, Proc.bind_run_error hrun, hkind hok] at hdc
    exact runUnit_raised hdc
  · obtain ⟨k, hrun⟩ := encodeAc_run_bits h
    refine ⟨k, ?_⟩
    rw [exec_encodeAc]
    exact runUnit_ok hrun
  · obtain ⟨k, hstop⟩ := encodeAc_run_at hcb hv hbits
    rw [exec_encodeAc]
    refine ⟨fun hlarge hzrls => ?_, fun hok hzrls => ?_, fun hok hsmall hcode => ?_⟩
    · obtain ⟨zrls, hz⟩ := Option.ne_none_iff_exists'.mp hzrls
      have hsize : Config.acSizeMax < size v := Nat.not_le.mp (mt (size_le_iff v 15).mp (Nat.not_lt.mpr hlarge))
      refine runProc_refused (s' := (({ s with work := { s.work with k := k } } : State).wrote bits).wrote zrls) _
        (hstop _ _ ?_)
      have hzr := emitZrls_run_bits (s := ({ s with work := { s.work with k := k } } : State).wrote bits) hz
      rw [Proc.bind_run_ok hzr, if_pos hsize, refuse_run]
    · obtain ⟨e, hrun, hkind⟩ := emitZrls_run_none
        (s := ({ s with work := { s.work with k := k } } : State).wrote bits) hzrls
      rw [hkind hok] at hrun
      exact runUnit_raised (hstop _ _ (Proc.bind_run_error hrun))
    · have hsize : ¬ Config.acSizeMax < size v := Nat.not_lt.mpr ((size_le_iff v 15).mpr hsmall)
      cases hz : zrlBits (s.image.ht .ac ta) (r / 16) with
      | none =>
        obtain ⟨e, hrun, hkind⟩ := emitZrls_run_none
          (s := ({ s with work := { s.work with k := k } } : State).wrote bits) hz
        rw [hkind hok] at hrun
        exact runUnit_raised (hstop _ _ (Proc.bind_run_error hrun))
      | some zrls =>
        obtain ⟨e, hrun, hkind⟩ := huffEncode_run_none
          (s := (({ s with work := { s.work with k := k } } : State).wrote bits).wrote zrls) hcode
        rw [hkind hok] at hrun
        refine runUnit_raised (pos := s.work.mcu)
          (s' := (({ s with work := { s.work with k := k } } : State).wrote bits).wrote zrls)
          (hstop _ _ ?_)
        have hzr := emitZrls_run_bits (s := ({ s with work := { s.work with k := k } } : State).wrote bits) hz
        rw [Proc.bind_run_ok hzr, if_neg hsize]
        exact hrun
  · obtain ⟨k, hloop⟩ := encodeAcFrom_run_all hbits
    obtain ⟨e, hrun, hkind⟩ := huffEncode_run_none
      (s := ({ s with work := { s.work with k := k } } : State).wrote bits) hnone
    rw [hkind hok] at hrun
    rw [exec_encodeAc]
    refine runUnit_raised (pos := s.work.mcu) (s' := ({ s with work := { s.work with k := k } } : State).wrote bits) ?_
    rw [encodeAc, Proc.bind_run_ok hloop, if_pos hr]
    exact hrun
  · obtain ⟨k, hrun⟩ := encodeBlock_run_bits h
    refine ⟨k, ?_⟩
    rw [exec_encodeBlock]
    exact runUnit_ok hrun
  · obtain ⟨bits, hbits⟩ := Option.ne_none_iff_exists'.mp hsome
    have hdc := encodeDc_run_bits hbits
    rw [exec_encodeDc, runUnit_ok hdc] at h
    cases h
    rw [exec_encodeAc_returning, exec_encodeBlock, exec_encodeAc, runUnit, runUnit, runProc, runProc, encodeBlock,
      Proc.bind_run_ok hdc]
  · obtain ⟨e, u, hrun⟩ := encodeDc_run_none hnone
    rw [exec_encodeDc, runUnit_error hrun] at h
    rw [exec_encodeBlock, ← h]
    exact runUnit_error (Proc.bind_run_error hrun)

end Sys2Proof.Machine
end

section
/-! PROOFS of the encoder: scans and whole streams (spec R91, R241, R242, R250, R257, R260). -/

namespace Sys2Proof.Machine

/-! What cannot be coded. -/

/-- Where the coefficients up to some index cannot be coded, one of them is the first. -/
theorem exists_first_of_acRunBits_none {slot : HuffSlot} (vs : List Int) : ∀ r : Nat, acRunBits slot r vs = none →
    ∃ before v after bits r', vs = before ++ v :: after ∧ v ≠ 0 ∧ acRunBits slot r before = some (bits, r') ∧
      (15 < size v ∨ zrlBits slot (r' / 16) = none ∨
        slot.codeOf (nibbles (BitVec.ofNat 4 (r' % 16)) (BitVec.ofNat 4 (size v))) = none) := by
  induction vs with
  | nil => exact fun r h => nomatch h
  | cons v vs ih =>
    intro r h
    rw [acRunBits] at h
    by_cases hv : v = 0
    · rw [if_pos hv] at h
      obtain ⟨before, v', after, bits, r', rfl, hv', hbits, hbad⟩ := ih (r + 1) h
      exact ⟨v :: before, v', after, bits, r', rfl, hv', by rw [acRunBits, if_pos hv, hbits], hbad⟩
    · rw [if_neg hv] at h
      by_cases hsize : size v ≤ Config.acSizeMax
      · rw [if_pos hsize] at h
        cases hzrls : zrlBits slot (r / 16) with
        | none => exact ⟨[], v, vs, [], r, rfl, hv, rfl, .inr (.inl hzrls)⟩
        | some zrls =>
          cases hcode : slot.codeOf (nibbles (BitVec.ofNat 4 (r % 16)) (BitVec.ofNat 4 (size v))) with
          | none => exact ⟨[], v, vs, [], r, rfl, hv, rfl, .inr (.inr hcode)⟩
          | some code =>
            cases hrest : acRunBits slot 0 vs with
            | some p => simp only [hzrls, hcode, hrest] at h; cases h
            | none =>
              obtain ⟨before, v', after, bits, r', rfl, hv', hbits, hbad⟩ := ih 0 hrest
              refine ⟨v :: before, v', after, zrls ++ code ++ natToBits (magbits v (size v)) (size v) ++ bits, r', rfl, hv',
                ?_, hbad⟩
              rw [acRunBits, if_neg hv, if_pos hsize, hzrls, hcode, hbits]
      · exact ⟨[], v, vs, [], r, rfl, hv, rfl, .inl (Nat.not_le.mp hsize)⟩

theorem encodeAc_run_none {s : State} {ta : Slot} (h : acBits (s.image.ht .ac ta) 0 s.work.cb.toList.tail = none) :
    ∃ e u, (encodeAc ta).run s = .error e u := by
  rw [acBits_eq] at h
  cases hrun : acRunBits (s.image.ht .ac ta) 0 s.work.cb.toList.tail with
  | some p =>
    obtain ⟨bits, r⟩ := p
    rw [hrun, Option.bind_some] at h
    dsimp only at h
    split at h
    · cases h
    · rename_i hr
      obtain ⟨k, hloop⟩ := encodeAcFrom_run_all hrun
      obtain ⟨e, herror, -⟩ := huffEncode_run_none (s := ({ s with work := { s.work with k := k } } : State).wrote bits)
        (Option.map_eq_none_iff.mp h)
      refine ⟨e, ({ s with work := { s.work with k := k } } : State).wrote bits, ?_⟩
      rw [encodeAc, Proc.bind_run_ok hloop, if_pos (Nat.pos_of_ne_zero hr)]
      exact herror
  | none =>
    obtain ⟨before, v, after, bits, r, hcb, hv, hbits, hbad⟩ := exists_first_of_acRunBits_none _ 0 hrun
    obtain ⟨k, hstop⟩ := encodeAc_run_at hcb hv hbits
    cases hzrls : zrlBits (s.image.ht .ac ta) (r / 16) with
    | none =>
      obtain ⟨e, herror, -⟩ := emitZrls_run_none (s := ({ s with work := { s.work with k := k } } : State).wrote bits) hzrls
      exact ⟨e, _, hstop _ _ (Proc.bind_run_error herror)⟩
    | some zrls =>
      have hz := emitZrls_run_bits (s := ({ s with work := { s.work with k := k } } : State).wrote bits) hzrls
      by_cases hsize : Config.acSizeMax < size v
      · refine ⟨_, _, hstop (.refused .acMagnitudeOutOfRange)
          ((({ s with work := { s.work with k := k } } : State).wrote bits).wrote zrls) ?_⟩
        rw [Proc.bind_run_ok hz, if_pos hsize, refuse_run]
      · have hcode := (hbad.resolve_left hsize).resolve_left (by rw [hzrls]; exact nofun)
        obtain ⟨e, herror, -⟩ := huffEncode_run_none
          (s := (({ s with work := { s.work with k := k } } : State).wrote bits).wrote zrls) hcode
        refine ⟨e, _, hstop e ((({ s with work := { s.work with k := k } } : State).wrote bits).wrote zrls) ?_⟩
        rw [Proc.bind_run_ok hz, if_neg hsize]
        exact herror

theorem encodeBlock_run_none {s : State} {ci td ta : Slot}
    (h : blockBits (s.image.ht .dc td) (s.image.ht .ac ta) s.work.pred[ci] s.work.cb = none) :
    ∃ e u, (encodeBlock ci td ta).run s = .error e u := by
  rw [blockBits] at h
  cases hd : dcBits (s.image.ht .dc td) (s.work.cb[0] - s.work.pred[ci]) with
  | none =>
    obtain ⟨e, u, hrun⟩ := encodeDc_run_none hd
    exact ⟨e, u, Proc.bind_run_error hrun⟩
  | some d =>
    cases ha : acBits (s.image.ht .ac ta) 0 s.work.cb.toList.tail with
    | some a => rw [hd, ha] at h; cases h
    | none =>
      obtain ⟨e, u, hrun⟩ := encodeAc_run_none (ta := ta)
        (s := ({ s with work := { s.work with pred := s.work.pred.set ci s.work.cb[0] } } : State).wrote d) ha
      exact ⟨e, u, (Proc.bind_run_ok (encodeDc_run_bits hd)).trans hrun⟩

/-! The units of an MCU. -/

/-- The units of an MCU write their bits and leave the predictors after them (spec R250). -/
theorem encodeUnits_run_bits (us : List DataUnit) : ∀ (s : State) (bits : List Bool) (pred : Vector Int 4),
    unitsBits s.image us s.work.pred = some (bits, pred) →
    ∃ w : Work, (encodeUnits us).run s = .ok () ({ s with work := w }.wrote bits) ∧ w.pred = pred ∧
      w.rstn = s.work.rstn := by
  induction us with
  | nil =>
    intro s bits pred h
    obtain ⟨rfl, rfl⟩ := Prod.mk.inj (Option.some.inj h)
    exact ⟨s.work, rfl, rfl, rfl⟩
  | cons u us ih =>
    intro s bits pred h
    have hload := loadBlock_run u s
    rw [unitsBits] at h
    generalize s.image.plane.readBlock u.ci u.row u.col = cb at h hload
    split at h
    · rename_i first rest pred' hblock hunits
      obtain ⟨rfl, rfl⟩ := Prod.mk.inj (Option.some.inj h)
      obtain ⟨k, hrun⟩ := encodeBlock_run_bits (ci := u.ci) (td := u.td) (ta := u.ta)
        (s := { s with work := { s.work with cb := cb } }) hblock
      obtain ⟨w, hrest, hpred, hrstn⟩ := ih (({ s with work := { s.work with
        cb := cb, k := k, pred := s.work.pred.set u.ci cb[0] } } : State).wrote first) rest pred' hunits
      refine ⟨w, ?_, hpred, hrstn⟩
      rw [encodeUnits, Proc.bind_run_ok hload, Proc.bind_run_ok hrun, ← State.wrote_wrote]
      exact hrest
    · cases h

theorem encodeUnits_run_none (us : List DataUnit) : ∀ s : State, unitsBits s.image us s.work.pred = none →
    ∃ e u, (encodeUnits us).run s = .error e u := by
  induction us with
  | nil => exact fun s h => nomatch h
  | cons u us ih =>
    intro s h
    have hload := loadBlock_run u s
    rw [unitsBits] at h
    generalize s.image.plane.readBlock u.ci u.row u.col = cb at h hload
    cases hblock : blockBits (s.image.ht .dc u.td) (s.image.ht .ac u.ta) s.work.pred[u.ci] cb with
    | none =>
      obtain ⟨e, v, hrun⟩ := encodeBlock_run_none (ci := u.ci) (td := u.td) (ta := u.ta)
        (s := { s with work := { s.work with cb := cb } }) hblock
      exact ⟨e, v, (Proc.bind_run_ok hload).trans (Proc.bind_run_error hrun)⟩
    | some bits =>
      obtain ⟨k, hrun⟩ := encodeBlock_run_bits (ci := u.ci) (td := u.td) (ta := u.ta)
        (s := { s with work := { s.work with cb := cb } }) hblock
      cases hunits : unitsBits s.image us (s.work.pred.set u.ci cb[0]) with
      | some p => simp only [hblock, hunits] at h; cases h
      | none =>
        obtain ⟨e, v, hrest⟩ := ih (({ s with work := { s.work with
          cb := cb, k := k, pred := s.work.pred.set u.ci cb[0] } } : State).wrote bits) hunits
        exact ⟨e, v, (Proc.bind_run_ok hload).trans ((Proc.bind_run_ok hrun).trans hrest)⟩

/-! The MCUs of a scan. -/

/-- `CANCEL` sampled 0 once, and then at the other points (spec R328). -/
theorem notCancelled_succ {s : State} {n : Nat} :
    s.notCancelled (n + 1) = true ↔ s.port.cancel.headD false = false ∧
      ({ s with port := { s.port with cancel := s.port.cancel.tail } } : State).notCancelled n = true := by
  rw [State.notCancelled, State.notCancelled]
  cases s.port.cancel with
  | nil => simp
  | cons c cs => simp

/-- The state at the units of an MCU: `CANCEL` was sampled 0 (spec R250, R260). -/
def State.atMcu (s : State) (mcu : Nat) : State :=
  { s with work := { s.work with mcu := mcu }, port := { s.port with cancel := s.port.cancel.tail } }

theorem encodeMcuBegin_run {s : State} {mcu : Nat} (h : s.port.cancel.headD false = false) :
    (encodeMcuBegin mcu).run s =
      (if restartDue s.image.ri mcu then emitRestart else pure () : Proc Unit).run (s.atMcu mcu) := by
  have hpoll := pollCancel_run (fun s => s.work.mcu) { s with work := { s.work with mcu := mcu } }
  rw [if_neg (by rw [h]; decide)] at hpoll
  rw [encodeMcuBegin, Proc.bind_run_ok (modifyWork_run _ s), Proc.bind_run_ok hpoll, Proc.get_bind_run]
  rfl

theorem encodeMcuBegin_run_cancelled {s : State} {mcu : Nat} (h : s.port.cancel.headD false = true) :
    ∃ u, (encodeMcuBegin mcu).run s = .error (.raised .cancelled mcu) u := by
  have hpoll := pollCancel_run (fun s => s.work.mcu) { s with work := { s.work with mcu := mcu } }
  rw [if_pos h] at hpoll
  exact ⟨_, (Proc.bind_run_ok (modifyWork_run _ s)).trans (Proc.bind_run_error hpoll)⟩

/-- The pieces of a scan with the first one begun: what stands in front of the rest. -/
theorem joinPieces_cons (n : BitVec 3) (bits : List Bool) {pieces : List (List Bool)} (h : pieces ≠ []) :
    joinPieces n (bits :: pieces) = entropyBytes bits ++ [0xFF, 0xD0 + n.zeroExtend 8] ++ joinPieces (n + 1) pieces := by
  cases pieces with
  | nil => exact absurd rfl h
  | cons piece pieces => rfl

theorem scanPieces_ne_nil {im : Image} {sc : List ScanComp} (n : Nat) : ∀ {mcu : Nat} {pred : Vector Int 4} {acc : List Bool}
    {pieces : List (List Bool)}, scanPieces im sc mcu pred acc n = some pieces → pieces ≠ [] := by
  induction n with
  | zero =>
    intro mcu pred acc pieces h
    cases h
    exact List.cons_ne_nil _ _
  | succ n ih =>
    intro mcu pred acc pieces h
    rw [scanPieces] at h
    split at h
    · cases h
    · split at h
      · obtain ⟨rest, -, rfl⟩ := Option.map_eq_some_iff.mp h
        exact List.cons_ne_nil _ _
      · exact ih h

/-- The writer behind a restart marker (spec R256). -/
theorem emitRestart_run_holding {s : State} {out : List Byte} {acc : List Bool} (h : s.writer = Writer.holding out acc) :
    emitRestart.run s = .ok () { s with
      writer := Writer.holding (out ++ (entropyBytes acc ++ [0xFF, 0xD0 + s.work.rstn.zeroExtend 8])) []
      work := { s.work with rstn := s.work.rstn + 1, pred := Vector.replicate 4 0 } } := by
  have hflush := Writer.flush_holding out acc
  have hrun : flushWithPadding.run s =
      .ok () { s with writer := { out := out ++ entropyBytes acc, wacc := 0, wcnt := 0 } } := by
    rw [flushWithPadding_run, h, hflush]
  have hempty : ∀ bytes, Writer.holding bytes [] = { out := bytes, wacc := 0, wcnt := 0 } := fun bytes => by
    simp [Writer.holding, entropyBytes, packBits, bitsToNat]
  rw [emitRestart, Proc.bind_run_ok hrun, Proc.get_bind_run, Proc.bind_run_ok (putRaw_run_emitted _ rfl), hempty,
    restartEffect_run]
  simp only [State.emitted, List.append_assoc]

theorem wrote_of_holding {s : State} {out : List Byte} {acc : List Bool} (h : s.writer = Writer.holding out acc)
    (bits : List Bool) : (s.wrote bits).writer = Writer.holding out (acc ++ bits) := by
  rw [State.wrote, h]
  exact Writer.foldl_writeBit_holding out acc bits

/-- What stands in front of an MCU: a restart marker when one is due (spec R250, R256). -/
theorem encodeMcuBegin_run_holding {s : State} {mcu : Nat} {out : List Byte} {acc : List Bool}
    (hw : s.writer = Writer.holding out acc) (hhead : s.port.cancel.headD false = false) :
    ∃ s1, (encodeMcuBegin mcu).run s = .ok () s1 ∧ s1.image = s.image ∧ s1.port.cancel = s.port.cancel.tail ∧
      s1.work.pred = (if restartDue s.image.ri mcu then Vector.replicate 4 0 else s.work.pred) ∧
      s1.work.rstn = (if restartDue s.image.ri mcu then s.work.rstn + 1 else s.work.rstn) ∧
      s1.writer = (if restartDue s.image.ri mcu then
        Writer.holding (out ++ (entropyBytes acc ++ [0xFF, 0xD0 + s.work.rstn.zeroExtend 8])) []
        else Writer.holding out acc) := by
  have hbegin := encodeMcuBegin_run (mcu := mcu) hhead
  cases hdue : restartDue s.image.ri mcu with
  | true =>
    rw [hdue, if_pos rfl, emitRestart_run_holding (s := s.atMcu mcu) hw] at hbegin
    exact ⟨_, hbegin, rfl, rfl, rfl, rfl, rfl⟩
  | false =>
    rw [hdue, if_neg Bool.false_ne_true] at hbegin
    exact ⟨_, hbegin, rfl, rfl, rfl, rfl, hw⟩

/-- One MCU of the loop of `encode_scan`. -/
theorem encodeMcus_run_succ {s s1 s2 : State} {sc : List ScanComp} {mcu : Nat} {u v : Unit} (n : Nat)
    (hbegin : (encodeMcuBegin mcu).run s = .ok u s1)
    (hunits : (encodeUnits (mcuUnits s1.image.frame sc mcu)).run s1 = .ok v s2) :
    (encodeMcus sc mcu (n + 1)).run s = (encodeMcus sc (mcu + 1) n).run s2 := by
  rw [encodeMcus, Proc.bind_run_ok hbegin, Proc.get_bind_run, Proc.bind_run_ok hunits]

/-- The units of the next MCU in the pieces of a scan (spec R91). -/
theorem scanPieces_succ {im : Image} {sc : List ScanComp} {mcu n : Nat} {pred : Vector Int 4} {acc : List Bool}
    {pieces : List (List Bool)} (h : scanPieces im sc mcu pred acc (n + 1) = some pieces) :
    ∃ bits pred', unitsBits im (mcuUnits im.frame sc mcu)
        (if restartDue im.ri mcu then Vector.replicate 4 0 else pred) = some (bits, pred') ∧
      ((restartDue im.ri mcu = true ∧ ∃ rest, scanPieces im sc (mcu + 1) pred' bits n = some rest ∧ pieces = acc :: rest) ∨
        (restartDue im.ri mcu = false ∧ scanPieces im sc (mcu + 1) pred' (acc ++ bits) n = some pieces)) := by
  rw [scanPieces] at h
  split at h
  · cases h
  · rename_i bits pred' hunits
    refine ⟨bits, pred', hunits, ?_⟩
    cases hdue : restartDue im.ri mcu with
    | true =>
      rw [hdue, if_pos rfl] at h
      obtain ⟨rest, hrest, rfl⟩ := Option.map_eq_some_iff.mp h
      exact .inl ⟨rfl, rest, hrest, rfl⟩
    | false =>
      rw [hdue, if_neg Bool.false_ne_true] at h
      exact .inr ⟨rfl, h⟩

/-- The MCU loop of `encode_scan` writes the pieces of the scan (spec R250). -/
theorem encodeMcus_run_pieces {sc : List ScanComp} (n : Nat) : ∀ (mcu : Nat) (s : State) (out : List Byte) (acc : List Bool)
    (pieces : List (List Bool)), s.writer = Writer.holding out acc → s.notCancelled n = true →
    scanPieces s.image sc mcu s.work.pred acc n = some pieces →
    ∃ t, (encodeMcus sc mcu n).run s = .ok () t ∧
      t.writer.flush = { out := out ++ joinPieces s.work.rstn pieces, wacc := 0, wcnt := 0 } ∧ t.writer.ok = true := by
  induction n with
  | zero =>
    intro mcu s out acc pieces hw _ h
    cases h
    refine ⟨_, modifyWork_run _ s, ?_, ?_⟩
    · show s.writer.flush = _
      rw [hw, Writer.flush_holding]
      rfl
    · show s.writer.ok = true
      rw [hw]
      exact Writer.holding_ok _ _
  | succ n ih =>
    intro mcu s out acc pieces hw hcancel h
    obtain ⟨hhead, htail⟩ := notCancelled_succ.mp hcancel
    obtain ⟨s1, hbegin, himage, hcancel1, hpred1, hrstn1, hwriter1⟩ := encodeMcuBegin_run_holding (mcu := mcu) hw hhead
    obtain ⟨bits, pred', hunits, hnext⟩ := scanPieces_succ h
    rw [← hpred1, ← himage] at hunits
    obtain ⟨w, hencode, hpred, hrstn⟩ := encodeUnits_run_bits _ s1 bits pred' hunits
    have hnot : (({ s1 with work := w } : State).wrote bits).notCancelled n = true := by
      rw [State.notCancelled] at htail ⊢
      show (s1.port.cancel.take n).all _ = true
      rwa [hcancel1]
    rw [← himage] at hnext
    rw [encodeMcus_run_succ n hbegin hencode]
    rcases hnext with ⟨hdue, rest, hrest, rfl⟩ | ⟨hdue, hrest⟩ <;> rw [himage] at hdue <;>
      simp only [hdue, if_true, Bool.false_eq_true, if_false] at hwriter1 hrstn1
    · obtain ⟨t, hmcus, hflush, hok⟩ := ih (mcu + 1) (({ s1 with work := w } : State).wrote bits)
        (out ++ (entropyBytes acc ++ [0xFF, 0xD0 + s.work.rstn.zeroExtend 8])) bits rest
        (wrote_of_holding (s := { s1 with work := w }) hwriter1 bits) hnot (hpred ▸ hrest)
      refine ⟨t, hmcus, ?_, hok⟩
      have hstep : (({ s1 with work := w } : State).wrote bits).work.rstn = s.work.rstn + 1 := hrstn.trans hrstn1
      rw [hflush, hstep, joinPieces_cons _ _ (scanPieces_ne_nil n hrest)]
      simp only [List.append_assoc]
    · obtain ⟨t, hmcus, hflush, hok⟩ := ih (mcu + 1) (({ s1 with work := w } : State).wrote bits) out (acc ++ bits) pieces
        (wrote_of_holding (s := { s1 with work := w }) hwriter1 bits) hnot (hpred ▸ hrest)
      refine ⟨t, hmcus, ?_, hok⟩
      have hstep : (({ s1 with work := w } : State).wrote bits).work.rstn = s.work.rstn := hrstn.trans hrstn1
      rw [hflush, hstep]

/-- A scan with a part that cannot be coded is not coded. -/
theorem encodeMcus_run_none {sc : List ScanComp} (n : Nat) : ∀ (mcu : Nat) (s : State) (out : List Byte) (acc : List Bool),
    s.writer = Writer.holding out acc → scanPieces s.image sc mcu s.work.pred acc n = none →
    ∃ e u, (encodeMcus sc mcu n).run s = .error e u := by
  induction n with
  | zero => exact fun mcu s out acc _ h => nomatch h
  | succ n ih =>
    intro mcu s out acc hw h
    cases hhead : s.port.cancel.headD false with
    | true =>
      obtain ⟨u, hrun⟩ := encodeMcuBegin_run_cancelled (mcu := mcu) hhead
      exact ⟨_, u, Proc.bind_run_error hrun⟩
    | false =>
      obtain ⟨s1, hbegin, himage, -, hpred1, -, hwriter1⟩ := encodeMcuBegin_run_holding (mcu := mcu) hw hhead
      rw [scanPieces, ← himage] at h
      rw [← himage] at hpred1 hwriter1
      cases hunits : unitsBits s1.image (mcuUnits s1.image.frame sc mcu) s1.work.pred with
      | none =>
        obtain ⟨e, u, hrun⟩ := encodeUnits_run_none _ s1 hunits
        exact ⟨e, u, (Proc.bind_run_ok hbegin).trans (Proc.bind_run_error (p := encodeUnits _) hrun)⟩
      | some p =>
        obtain ⟨bits, pred'⟩ := p
        obtain ⟨w, hencode, hpred, -⟩ := encodeUnits_run_bits _ s1 bits pred' hunits
        rw [encodeMcus_run_succ n hbegin hencode]
        rw [hpred1] at hunits
        rw [hunits] at h
        dsimp only at h
        have hpred' : pred' = (({ s1 with work := w } : State).wrote bits).work.pred := hpred.symm
        split at h
        · rename_i hdue
          rw [if_pos hdue] at hwriter1
          rw [Option.map_eq_none_iff, hpred'] at h
          exact ih (mcu + 1) _ _ bits (wrote_of_holding (s := { s1 with work := w }) hwriter1 bits) h
        · rename_i hdue
          rw [if_neg hdue] at hwriter1
          rw [hpred'] at h
          exact ih (mcu + 1) _ _ (acc ++ bits) (wrote_of_holding (s := { s1 with work := w }) hwriter1 bits) h

/-! `encode_scan`. -/

theorem scanBegin_run (s : State) :
    scanBegin.run s = .ok () { s with work := { s.work with pred := Vector.replicate 4 0, rstn := 0 } } := rfl

theorem encodeScan_run (s : State) :
    encodeScan.run s = (encodeMcus s.image.scan0.sc 0 s.image.frame.mcuCount).run
      { s with work := { s.work with pred := Vector.replicate 4 0, rstn := 0 } } := by
  rw [encodeScan, Proc.bind_run_ok (scanBegin_run s), Proc.get_bind_run]

theorem Writer.eq_holding_nil {w : Writer} (hcnt : w.wcnt = 0) (hacc : w.wacc = 0) : w = Writer.holding w.out [] := by
  obtain ⟨out, wacc, wcnt⟩ := w
  subst hcnt
  subst hacc
  simp [Writer.holding, entropyBytes, packBits, bitsToNat]

/-- `encode_scan` writes the entropy-coded bytes of the scan (spec R250). -/
theorem encodeScan_run_bytes {s : State} {data : List Byte} (hcnt : s.writer.wcnt = 0) (hacc : s.writer.wacc = 0)
    (hdata : s.image.scanBytes = some data) (hcancel : s.notCancelled s.image.frame.mcuCount = true) :
    ∃ t, encodeScan.run s = .ok () t ∧
      t.writer.flush = { out := s.writer.out ++ data, wacc := 0, wcnt := 0 } ∧ t.writer.ok = true := by
  obtain ⟨pieces, hpieces, rfl⟩ := Option.map_eq_some_iff.mp hdata
  rw [encodeScan_run]
  exact encodeMcus_run_pieces _ 0 { s with work := { s.work with pred := Vector.replicate 4 0, rstn := 0 } } s.writer.out []
    pieces (Writer.eq_holding_nil hcnt hacc) hcancel hpieces

theorem encodeScan_run_none {s : State} (hcnt : s.writer.wcnt = 0) (hacc : s.writer.wacc = 0)
    (hdata : s.image.scanBytes = none) : ∃ e u, encodeScan.run s = .error e u := by
  rw [encodeScan_run]
  exact encodeMcus_run_none _ 0 { s with work := { s.work with pred := Vector.replicate 4 0, rstn := 0 } } s.writer.out []
    (Writer.eq_holding_nil hcnt hacc) (Option.map_eq_none_iff.mp hdata)

/-! The whole stream. -/

/-- What ENCODE writes in front of the entropy-coded data (spec R242). -/
def encodeHead : Proc Unit := do
  emitSoi
  emitPreserved
  emitDqt
  emitDht
  emitSof0
  emitDri
  emitSos

theorem encodeStream_eq : encodeStream = (encodeHead >>= fun _ => encodeScan >>= fun _ => finalize) := by
  simp only [encodeStream, encodeHead, bind_assoc]

theorem encodeHead_emits (im : Image) : EmitsIf im im.tablesReady im.headBytes encodeHead := by
  have h := (emitSoi_emits im).seq ((emitPreserved_emits im).seq ((emitDqt_emits im).seq ((emitDht_emits im).seq
    ((emitSof0_emits im).seq ((emitDri_emits im).seq (emitSos_emits im))))))
  have hready : (true && (true && (((usedQuant im).all fun t => im.qt[t].valid) &&
      ((((usedHuff im .dc).all fun t => (im.ht .dc t).valid) && (usedHuff im .ac).all fun t => (im.ht .ac t).valid) &&
        (true && (true && true)))))) = im.tablesReady := by
    simp only [Image.tablesReady, Bool.true_and, Bool.and_true, Bool.and_assoc]
  rw [hready] at h
  rw [Image.headBytes, encodeHead]
  simpa only [List.append_assoc] using h

theorem encodeStream_run_bytes {s : State} {data : List Byte} (hcnt : s.writer.wcnt = 0) (hacc : s.writer.wacc = 0)
    (hready : s.image.tablesReady = true) (hdata : s.image.scanBytes = some data)
    (hcancel : s.notCancelled s.image.frame.mcuCount = true) :
    ∃ t, encodeStream.run s = .ok () t ∧
      t.writer = { out := s.writer.out ++ s.image.headBytes ++ data ++ [0xFF, 0xD9], wacc := 0, wcnt := 0 } := by
  obtain ⟨t, hscan, hflush, hok⟩ := encodeScan_run_bytes (s := s.emitted s.image.headBytes) hcnt hacc hdata hcancel
  refine ⟨t.flushed.emitted [0xFF, 0xD9], ?_, ?_⟩
  · rw [encodeStream_eq, Proc.bind_run_ok ((encodeHead_emits s.image).appends hready s hcnt rfl), Proc.bind_run_ok hscan,
      finalize_run hok]
  · have hflushed : t.flushed.writer = t.writer.flush := by
      have := flushWithPadding_run t
      rw [flushWithPadding_run_flushed hok] at this
      exact congrArg State.writer (EStateM.Result.ok.inj this).2
    show Writer.mk (t.flushed.writer.out ++ [0xFF, 0xD9]) 0 0 = _
    rw [hflushed, hflush]
    rfl

/-- An ENCODE that ends ok had all its tables, and every block of its scan could be coded. -/
theorem encodeStream_ok {s t : State} {u : Unit} (hcnt : s.writer.wcnt = 0) (hacc : s.writer.wacc = 0)
    (h : encodeStream.run s = .ok u t) : s.image.tablesReady = true ∧ ∃ data, s.image.scanBytes = some data := by
  rw [encodeStream_eq] at h
  obtain ⟨_, s1, hhead, hrest⟩ := Proc.bind_eq_ok h
  have hready : s.image.tablesReady = true := by
    by_contra hne
    obtain ⟨s', hrun⟩ := (encodeHead_emits s.image).refuses (Bool.eq_false_of_not_eq_true hne) s hcnt rfl
    rw [hrun] at hhead
    cases hhead
  rw [(encodeHead_emits s.image).appends hready s hcnt rfl] at hhead
  cases hhead
  refine ⟨hready, Option.ne_none_iff_exists'.mp fun hnone => ?_⟩
  obtain ⟨_, s2, hscan, -⟩ := Proc.bind_eq_ok hrest
  obtain ⟨e, v, hrun⟩ := encodeScan_run_none (s := s.emitted s.image.headBytes) hcnt hacc hnone
  rw [hrun] at hscan
  cases hscan

theorem exec_encodeScan {s : State} (h : s.image.scans ≠ []) : exec .encodeScan s = runUnit encodeScan s :=
  runUnit_require (decide_eq_true h) _ _ s

/-- Settles O46, by the pieces of the scan. -/
theorem encodeWritesTheStreamOfTheImage : Obligations.EncodeWritesTheStreamOfTheImage := by
  refine ⟨fun s data hphase hscan hready hdata hcancel => ?_, fun s data hscans hcnt hacc hdata hcancel => ?_⟩
  · obtain ⟨t, hrun, hwriter⟩ := encodeStream_run_bytes (s := s.encoding) rfl rfl hready hdata hcancel
    have hcoded := (encodeStream_coded _).ok _ _ hrun
    have hcommand := (encodeCommandProc_run hphase hscan).trans (Proc.bind_run_ok hrun)
    rw [exec_encode]
    refine ⟨_, runUnit_ok hcommand, ?_, hwriter, hcoded.image, hcoded.reader, hcoded.agent⟩
    show ({ t.status with phase := .decoded } : Status) = s.status
    rw [hcoded.status, ← hphase]
    rfl
  · obtain ⟨t, hrun, hflush, -⟩ := encodeScan_run_bytes hcnt hacc hdata hcancel
    have hcoded := (encodeScan_coded _).ok _ _ hrun
    rw [exec_encodeScan hscans]
    refine ⟨_, runUnit_ok hrun, ?_, hcoded.status, hcoded.image, hcoded.reader, hcoded.agent⟩
    show t.writer.flush.out = _
    rw [hflush]

end Sys2Proof.Machine
end

section
/-! PROOFS of the decoder: scans (spec R91, R193, R197, R198, R204). -/

namespace Sys2Proof.Machine

/-! The pieces of a scan at the read cursor. -/

/-- What stands behind a piece of a scan: nothing, or the restart marker and the other pieces (spec R91). -/
def markedBytes (n : BitVec 3) : List (List Bool) → List Byte
  | [] => []
  | piece :: pieces => [0xFF, 0xD0 + n.zeroExtend 8] ++ joinPieces (n + 1) (piece :: pieces)

theorem joinPieces_eq (n : BitVec 3) (piece : List Bool) (pieces : List (List Bool)) :
    joinPieces n (piece :: pieces) = entropyBytes piece ++ markedBytes n pieces := by
  cases pieces with
  | nil => exact (List.append_nil _).symm
  | cons next pieces => rw [joinPieces_cons n piece (List.cons_ne_nil _ _), markedBytes, List.append_assoc]

/-- The reader has the rest `more` of a piece to deliver, behind which the other pieces stand up to `stop`. -/
structure Reader.Ahead (r : Reader) (n : BitVec 3) (more : List Bool) (pieces : List (List Bool)) (stop : Nat)
    (out tail : List Byte) (k : Nat) : Prop where
  padding : k < 8
  yields : r.Yields out tail (more ++ List.replicate k true)
  marked : ∃ rest, tail = markedBytes n pieces ++ rest
  stop_eq : stop = out.length + (markedBytes n pieces).length

theorem Reader.Yields.inp_eq {r : Reader} {out tail : List Byte} {bits : List Bool} (h : r.Yields out tail bits) :
    r.inp = out ++ tail := by
  obtain ⟨_, before, -⟩ := h
  exact before.inp_eq

/-- From a byte boundary in front of its bytes, the reader has a whole piece to deliver. -/
theorem Reader.ahead_of_holds {r : Reader} {n : BitVec 3} {piece : List Bool} {pieces : List (List Bool)}
    (h : r.holds (joinPieces n (piece :: pieces)) = true) (hcnt : r.rcnt = 0) (hrp : r.rp ≤ r.inp.length) :
    ∃ out tail k, r.Ahead n piece pieces (r.rp + (joinPieces n (piece :: pieces)).length) out tail k := by
  obtain ⟨rest, hrest⟩ := (Reader.holds_iff _ _).mp h
  obtain ⟨k, hk, hbits⟩ := bytesToBits_dataBytes piece
  have hinp : r.inp = r.inp.take r.rp ++ entropyBytes piece ++ (markedBytes n pieces ++ rest) := by
    rw [List.append_assoc, ← List.append_assoc (entropyBytes piece), ← joinPieces_eq, ← hrest, List.take_append_drop]
  have hlen : (r.inp.take r.rp).length = r.rp := List.length_take_of_le hrp
  refine ⟨r.inp.take r.rp ++ entropyBytes piece, markedBytes n pieces ++ rest, k, hk,
    ⟨dataBytes piece, ⟨hinp, ?_, ?_⟩, ?_⟩, ⟨rest, rfl⟩, ?_⟩
  · rw [List.length_append, hlen]
    exact Nat.le_add_right _ _
  · rw [List.drop_left' hlen]
    rfl
  · rw [hcnt, hbits]
    rfl
  · rw [joinPieces_eq, List.length_append, List.length_append, hlen, Nat.add_assoc]

section
variable {r : Reader} {n : BitVec 3} {pieces : List (List Bool)} {stop k : Nat} {out tail : List Byte}

theorem Reader.Ahead.takeBits {bits more : List Bool} (h : r.Ahead n (bits ++ more) pieces stop out tail k) :
    ∃ r', r.takeBits bits.length = some (bits, r') ∧ r'.inp = r.inp ∧ r'.Ahead n more pieces stop out tail k := by
  have hyields := h.yields
  rw [List.append_assoc] at hyields
  obtain ⟨r', htake, hyields'⟩ := hyields.takeBits
  exact ⟨r', htake, hyields'.inp_eq.trans hyields.inp_eq.symm, h.padding, hyields', h.marked, h.stop_eq⟩

/-- With a piece delivered, the reader stands behind its bytes. -/
theorem Reader.Ahead.rp_eq (h : r.Ahead n [] pieces stop out tail k) : r.rp = out.length :=
  (h.yields.padding_left h.padding).1

theorem Reader.Ahead.rp_eq_stop (h : r.Ahead n [] [] stop out tail k) : r.rp = stop :=
  h.rp_eq.trans h.stop_eq.symm

/-- Behind a piece the expected restart marker stands (spec R203). -/
theorem Reader.Ahead.holds_marker {piece : List Bool} (h : r.Ahead n [] (piece :: pieces) stop out tail k) :
    r.holds [0xFF, 0xD0 + n.zeroExtend 8] = true := by
  obtain ⟨rest, hrest⟩ := h.marked
  refine (Reader.holds_iff _ _).mpr ⟨joinPieces (n + 1) (piece :: pieces) ++ rest, ?_⟩
  rw [h.yields.inp_eq, h.rp_eq, List.drop_left, hrest, markedBytes, List.append_assoc]

/-- Behind the restart marker the next piece stands. -/
theorem Reader.Ahead.pastMarker {piece : List Bool} (h : r.Ahead n [] (piece :: pieces) stop out tail k) :
    ∃ out' tail' k', Reader.Ahead { r with rp := r.rp + 2, rcnt := 0 } (n + 1) piece pieces stop out' tail' k' := by
  obtain ⟨rest, hrest⟩ := h.marked
  have hlen : r.rp + 2 ≤ r.inp.length := by
    rw [h.yields.inp_eq, h.rp_eq, hrest, markedBytes]
    simp
  have hholds : Reader.holds { r with rp := r.rp + 2, rcnt := 0 } (joinPieces (n + 1) (piece :: pieces)) = true := by
    refine (Reader.holds_iff _ _).mpr ⟨rest, ?_⟩
    show r.inp.drop (r.rp + 2) = _
    rw [h.yields.inp_eq, h.rp_eq, ← List.drop_drop, List.drop_left, hrest, markedBytes, List.append_assoc]
    rfl
  have hstop : stop = r.rp + 2 + (joinPieces (n + 1) (piece :: pieces)).length := by
    rw [h.stop_eq, h.rp_eq, markedBytes, List.length_append]
    exact (Nat.add_assoc _ _ _).symm
  rw [hstop]
  exact Reader.ahead_of_holds hholds rfl hlen

end

/-! The cells of data units. -/

/-- The addresses of a data unit's cells. -/
def DataUnit.covers (u : DataUnit) (a : Nat) : Prop := ∃ i : Fin 64, a = cellAddr u.ci u.row u.col i.val

/-- The memory `after` is `before` with the cells of these data units as they are in `source`. -/
structure Memory.Copied (source before after : Memory) (us : List DataUnit) : Prop where
  wf : before.wf = true → after.wf = true
  covered : before.wf = true → ∀ u ∈ us, ∀ a, u.covers a → after.read a = source.read a
  other : ∀ a, (∀ u ∈ us, ¬ u.covers a) → after.read a = before.read a

theorem Memory.Copied.nil (source m : Memory) : Memory.Copied source m m [] :=
  ⟨id, fun _ _ hu => (List.not_mem_nil hu).elim, fun _ _ => rfl⟩

theorem Memory.copied_writeBlock (source m : Memory) (u : DataUnit) :
    Memory.Copied source m (m.writeBlock u.ci u.row u.col (source.readBlock u.ci u.row u.col)) [u] where
  wf := Memory.wf_writeBlock m _ _ _ _
  covered hwf v hv a hcover := by
    obtain rfl := List.mem_singleton.mp hv
    obtain ⟨i, rfl⟩ := hcover
    rw [Memory.read_writeBlock m _ _ _ _ i hwf]
    simp [Memory.readBlock, blockAddr_add]
  other a h := Memory.read_writeBlock_other m _ _ _ _ a fun i hi => h u (List.mem_singleton.mpr rfl) ⟨i, hi⟩

theorem Memory.Copied.append {source m m1 m2 : Memory} {us vs : List DataUnit} (h1 : Memory.Copied source m m1 us)
    (h2 : Memory.Copied source m1 m2 vs) : Memory.Copied source m m2 (us ++ vs) where
  wf hwf := h2.wf (h1.wf hwf)
  covered hwf u hu a hcover := by
    by_cases hlater : ∃ v ∈ vs, v.covers a
    · obtain ⟨v, hv, hva⟩ := hlater
      exact h2.covered (h1.wf hwf) v hv a hva
    · have hother : ∀ v ∈ vs, ¬ v.covers a := fun v hv hva => hlater ⟨v, hv, hva⟩
      have hin := (List.mem_append.mp hu).resolve_right fun hv => hother u hv hcover
      rw [h2.other a hother, h1.covered hwf u hin a hcover]
  other a h := by
    rw [h2.other a fun u hu => h u (List.mem_append_right _ hu), h1.other a fun u hu => h u (List.mem_append_left _ hu)]

/-! What a scan leaves unchanged. -/

/-- The state `t` is `s` with entropy-coded bytes read and coefficients stored. -/
structure State.ScannedTo (s t : State) : Prop where
  image : t.image = { s.image with plane := t.image.plane }
  inp : t.reader.inp = s.reader.inp
  status : t.status = s.status
  writer : t.writer = s.writer
  agent : t.agent = s.agent

theorem State.ScannedTo.refl (s : State) : s.ScannedTo s := ⟨rfl, rfl, rfl, rfl, rfl⟩

theorem State.ScannedTo.trans {s t u : State} (h1 : s.ScannedTo t) (h2 : t.ScannedTo u) : s.ScannedTo u :=
  ⟨h2.image.trans (by rw [h1.image]), h2.inp.trans h1.inp, h2.status.trans h1.status, h2.writer.trans h1.writer,
    h2.agent.trans h1.agent⟩

/-! The units of an MCU. -/

theorem decodeUnits_run_bits {source : Memory} {n : BitVec 3} {more : List Bool} {pieces : List (List Bool)} {stop k : Nat}
    {out tail : List Byte} (us : List DataUnit) : ∀ (s : State) (bits : List Bool) (pred : Vector Int 4),
    unitsBits { s.image with plane := source } us s.work.pred = some (bits, pred) →
    s.reader.Ahead n (bits ++ more) pieces stop out tail k →
    ∃ t, (decodeUnits us).run s = .ok () t ∧ s.ScannedTo t ∧ Memory.Copied source s.image.plane t.image.plane us ∧
      t.work.pred = pred ∧ t.work.rstn = s.work.rstn ∧ t.port = s.port ∧
      t.reader.Ahead n more pieces stop out tail k := by
  induction us with
  | nil =>
    intro s bits pred h hahead
    obtain ⟨rfl, rfl⟩ := Prod.mk.inj (Option.some.inj h)
    exact ⟨s, rfl, .refl s, .nil _ _, rfl, rfl, rfl, hahead⟩
  | cons u us ih =>
    intro s bits pred h hahead
    have hcopied := Memory.copied_writeBlock source s.image.plane u
    rw [unitsBits] at h
    dsimp only at h
    generalize source.readBlock u.ci u.row u.col = cb at h hcopied
    split at h
    · rename_i first rest pred' hblock hunits
      obtain ⟨rfl, rfl⟩ := Prod.mk.inj (Option.some.inj h)
      rw [List.append_assoc] at hahead
      obtain ⟨r, htake, hinp, hahead'⟩ := hahead.takeBits
      obtain ⟨k', -, -, hrun⟩ := decodeBlock_run_bits (ci := u.ci) (td := u.td) (ta := u.ta) (s := s) hblock htake
      obtain ⟨t, hrest, hto, hcopied', hpred, hrstn, hport, hend⟩ := ih { s with
        reader := r
        work := { s.work with cb := cb, k := k', pred := s.work.pred.set u.ci cb[0] }
        image := { s.image with plane := s.image.plane.writeBlock u.ci u.row u.col cb } } rest pred' hunits hahead'
      refine ⟨t, ?_, State.ScannedTo.trans ?_ hto, hcopied.append hcopied', hpred, hrstn, hport, hend⟩
      · rw [decodeUnits, Proc.bind_run_ok hrun, Proc.bind_run_ok (storeBlock_run u _)]
        exact hrest
      · exact ⟨rfl, hinp, rfl, rfl, rfl⟩
    · cases h

/-! The MCUs of a scan. -/

/-- The bits in front of a piece of a scan are the first ones of it, and it is coded with any others in front (spec R91). -/
theorem exists_of_scanPieces {im : Image} {sc : List ScanComp} (n : Nat) : ∀ {mcu : Nat} {pred : Vector Int 4}
    {acc : List Bool} {pieces : List (List Bool)}, scanPieces im sc mcu pred acc n = some pieces →
    ∃ piece rest, pieces = (acc ++ piece) :: rest ∧ scanPieces im sc mcu pred [] n = some (piece :: rest) := by
  suffices h : ∀ (mcu : Nat) (pred : Vector Int 4) (acc : List Bool) (pieces : List (List Bool)),
      scanPieces im sc mcu pred acc n = some pieces →
      ∃ piece rest, pieces = (acc ++ piece) :: rest ∧
        ∀ acc', scanPieces im sc mcu pred acc' n = some ((acc' ++ piece) :: rest) by
    intro mcu pred acc pieces hpieces
    obtain ⟨piece, rest, heq, hall⟩ := h mcu pred acc pieces hpieces
    exact ⟨piece, rest, heq, hall []⟩
  induction n with
  | zero =>
    intro mcu pred acc pieces h
    cases h
    exact ⟨[], [], by rw [List.append_nil], fun acc' => by rw [List.append_nil]; rfl⟩
  | succ n ih =>
    intro mcu pred acc pieces h
    obtain ⟨bits, pred', hunits, hnext⟩ := scanPieces_succ h
    rcases hnext with ⟨hdue, rest, hrest, rfl⟩ | ⟨hdue, hrest⟩
    · refine ⟨[], rest, by rw [List.append_nil], fun acc' => ?_⟩
      rw [hdue, if_pos rfl] at hunits
      simp only [scanPieces, hdue, if_true, hunits, hrest, Option.map_some, List.append_nil]
    · obtain ⟨piece, rest, rfl, hall⟩ := ih _ _ _ _ hrest
      refine ⟨bits ++ piece, rest, by rw [List.append_assoc], fun acc' => ?_⟩
      rw [hdue, if_neg Bool.false_ne_true] at hunits
      simp only [scanPieces, hdue, Bool.false_eq_true, if_false, hunits, hall, List.append_assoc]

theorem unitsBits_congr {im im' : Image} (hplane : im'.plane = im.plane) (us : List DataUnit) : ∀ pred : Vector Int 4,
    (∀ u ∈ us, im'.ht .dc u.td = im.ht .dc u.td ∧ im'.ht .ac u.ta = im.ht .ac u.ta) →
    unitsBits im' us pred = unitsBits im us pred := by
  induction us with
  | nil => exact fun _ _ => rfl
  | cons u us ih =>
    intro pred hht
    obtain ⟨hdc, hac⟩ := hht u List.mem_cons_self
    have hus := fun pred => ih pred fun v hv => hht v (List.mem_cons_of_mem u hv)
    simp only [unitsBits, hplane, hdc, hac, hus]

theorem tables_of_mem_mcuUnits {f : Frame} {sc : List ScanComp} {mcu : Nat} {u : DataUnit} (hu : u ∈ mcuUnits f sc mcu) :
    ∃ c ∈ sc, u.td = c.td ∧ u.ta = c.ta := by
  obtain ⟨c, hc, hunit⟩ := List.mem_flatMap.mp hu
  obtain ⟨v, -, hmap⟩ := List.mem_flatMap.mp hunit
  obtain ⟨h, -, rfl⟩ := List.mem_map.mp hmap
  exact ⟨c, hc, rfl, rfl⟩

/-- The bits of a scan depend on the frame, the interval, the coefficients and the tables it names (spec R91). -/
theorem scanPieces_congr {im im' : Image} {sc : List ScanComp} (hframe : im'.frame = im.frame) (hri : im'.ri = im.ri)
    (hplane : im'.plane = im.plane)
    (hht : ∀ c ∈ sc, im'.ht .dc c.td = im.ht .dc c.td ∧ im'.ht .ac c.ta = im.ht .ac c.ta) (n : Nat) :
    ∀ (mcu : Nat) (pred : Vector Int 4) (acc : List Bool),
      scanPieces im' sc mcu pred acc n = scanPieces im sc mcu pred acc n := by
  induction n with
  | zero => exact fun _ _ _ => rfl
  | succ n ih =>
    intro mcu pred acc
    have hunits := fun pred => unitsBits_congr hplane (mcuUnits im.frame sc mcu) pred fun u hu => by
      obtain ⟨c, hc, htd, hta⟩ := tables_of_mem_mcuUnits hu
      rw [htd, hta]
      exact hht c hc
    simp only [scanPieces, hframe, hri, hunits, ih]

/-- The data units of `n` MCUs from number `mcu` on. -/
def mcusUnits (f : Frame) (sc : List ScanComp) (mcu n : Nat) : List DataUnit := (List.range' mcu n).flatMap (mcuUnits f sc)

theorem mcusUnits_succ (f : Frame) (sc : List ScanComp) (mcu n : Nat) :
    mcusUnits f sc mcu (n + 1) = mcuUnits f sc mcu ++ mcusUnits f sc (mcu + 1) n := by
  rw [mcusUnits, List.range'_succ, List.flatMap_cons, mcusUnits]

theorem mcuBegin_run {s : State} {mcu : Nat} (h : s.port.cancel.headD false = false) :
    (mcuBegin mcu).run s =
      (if restartDue s.image.ri mcu then restart else pure () : Proc Unit).run (s.atMcu mcu) := by
  have hpoll := pollCancel_run (fun s => s.reader.rp) { s with work := { s.work with mcu := mcu } }
  rw [if_neg (by rw [h]; decide)] at hpoll
  rw [mcuBegin, Proc.bind_run_ok (modifyWork_run _ s), Proc.bind_run_ok hpoll, Proc.get_bind_run]
  rfl

theorem mcuBegin_run_due {s : State} {mcu : Nat} (h : s.port.cancel.headD false = false)
    (hdue : restartDue s.image.ri mcu = true) (hmarker : s.reader.holds [0xFF, 0xD0 + s.work.rstn.zeroExtend 8] = true) :
    (mcuBegin mcu).run s = restartEffect.run ((s.atMcu mcu).pastMarker 0) := by
  rw [mcuBegin_run h, hdue, if_pos rfl]
  exact restart_run_of_holds (s := s.atMcu mcu) (fills := 0) hmarker

theorem decodeMcus_run_succ {s s1 s2 : State} {sc : List ScanComp} {mcu : Nat} {u v : Unit} (n : Nat)
    (hbegin : (mcuBegin mcu).run s = .ok u s1)
    (hunits : (decodeUnits (mcuUnits s1.image.frame sc mcu)).run s1 = .ok v s2) :
    (decodeMcus sc mcu (n + 1)).run s = (decodeMcus sc (mcu + 1) n).run s2 := by
  rw [decodeMcus, Proc.bind_run_ok hbegin, Proc.get_bind_run, Proc.bind_run_ok hunits]

/-- What stands in front of an MCU: the restart marker when one is due (spec R197, R203). -/
theorem mcuBegin_run_ahead {s : State} {sc : List ScanComp} {source : Memory} {mcu n : Nat} {piece : List Bool}
    {pieces : List (List Bool)} {stop k : Nat} {out tail : List Byte} (hhead : s.port.cancel.headD false = false)
    (hahead : s.reader.Ahead s.work.rstn piece pieces stop out tail k)
    (h : scanPieces { s.image with plane := source } sc mcu s.work.pred [] (n + 1) = some (piece :: pieces)) :
    ∃ s1 bits pred more pieces' out' tail' k', (mcuBegin mcu).run s = .ok () s1 ∧ s1.image = s.image ∧
      s1.port.cancel = s.port.cancel.tail ∧ s.ScannedTo s1 ∧
      unitsBits { s1.image with plane := source } (mcuUnits s1.image.frame sc mcu) s1.work.pred = some (bits, pred) ∧
      s1.reader.Ahead s1.work.rstn (bits ++ more) pieces' stop out' tail' k' ∧
      scanPieces { s1.image with plane := source } sc (mcu + 1) pred [] n = some (more :: pieces') := by
  obtain ⟨bits, pred, hunits, hnext⟩ := scanPieces_succ h
  rcases hnext with ⟨hdue, rest, hrest, heq⟩ | ⟨hdue, hrest⟩
  · obtain ⟨rfl, rfl⟩ := List.cons_eq_cons.mp heq
    obtain ⟨more, pieces', rfl, hmore⟩ := exists_of_scanPieces n hrest
    obtain ⟨out', tail', k', hahead'⟩ := hahead.pastMarker
    rw [hdue, if_pos rfl] at hunits
    exact ⟨_, bits, pred, more, pieces', out', tail', k', mcuBegin_run_due hhead hdue hahead.holds_marker, rfl, rfl,
      ⟨rfl, rfl, rfl, rfl, rfl⟩, hunits, hahead', hmore⟩
  · obtain ⟨more, pieces', heq, hmore⟩ := exists_of_scanPieces n hrest
    obtain ⟨rfl, rfl⟩ := List.cons_eq_cons.mp heq
    rw [hdue, if_neg Bool.false_ne_true] at hunits
    have hbegin := mcuBegin_run (mcu := mcu) hhead
    have hdue' : restartDue s.image.ri mcu = false := hdue
    rw [hdue', if_neg Bool.false_ne_true] at hbegin
    exact ⟨_, bits, pred, more, pieces, out, tail, k, hbegin, rfl, rfl, ⟨rfl, rfl, rfl, rfl, rfl⟩, hunits, hahead, hmore⟩

/-- The MCU loop of `decode_scan` reads the pieces of the scan (spec R197). -/
theorem decodeMcus_run_pieces {sc : List ScanComp} {source : Memory} {stop : Nat} (n : Nat) : ∀ (mcu : Nat) (s : State)
    (piece : List Bool) (pieces : List (List Bool)) (out tail : List Byte) (k : Nat), s.notCancelled n = true →
    scanPieces { s.image with plane := source } sc mcu s.work.pred [] n = some (piece :: pieces) →
    s.reader.Ahead s.work.rstn piece pieces stop out tail k →
    ∃ t, (decodeMcus sc mcu n).run s = .ok () t ∧ s.ScannedTo t ∧ t.reader.rp = stop ∧
      Memory.Copied source s.image.plane t.image.plane (mcusUnits s.image.frame sc mcu n) := by
  induction n with
  | zero =>
    intro mcu s piece pieces out tail k _ h hahead
    obtain ⟨rfl, rfl⟩ := List.cons_eq_cons.mp (Option.some.inj h)
    exact ⟨_, modifyWork_run _ s, ⟨rfl, rfl, rfl, rfl, rfl⟩, hahead.rp_eq_stop, .nil _ _⟩
  | succ n ih =>
    intro mcu s piece pieces out tail k hcancel h hahead
    obtain ⟨hhead, htail⟩ := notCancelled_succ.mp hcancel
    obtain ⟨s1, bits, pred, more, pieces', out', tail', k', hbegin, himage, hcancel1, hto1, hunits, hahead1, hrest⟩ :=
      mcuBegin_run_ahead hhead hahead h
    obtain ⟨s2, hdecode, hto2, hcopied, hpred, hrstn, hport, hahead2⟩ := decodeUnits_run_bits _ s1 bits pred hunits hahead1
    have hnot : s2.notCancelled n = true := by
      rw [State.notCancelled, hport, hcancel1]
      exact htail
    rw [← hpred] at hrest
    rw [← hrstn] at hahead2
    have himage2 : ({ s2.image with plane := source } : Image) = { s1.image with plane := source } := by rw [hto2.image]
    obtain ⟨t, hmcus, hto, hrp, hcopied'⟩ := ih (mcu + 1) s2 more pieces' out' tail' k' hnot (himage2 ▸ hrest) hahead2
    refine ⟨t, (decodeMcus_run_succ n hbegin hdecode).trans hmcus, (hto1.trans hto2).trans hto, hrp, ?_⟩
    rw [mcusUnits_succ, ← himage]
    have hframe : s2.image.frame = s1.image.frame := by rw [hto2.image]
    rw [hframe] at hcopied'
    exact hcopied.append hcopied'

/-! The cells of a scan. -/

/-- The data units of a component cover its stored grid (spec R196 to R198). -/
theorem exists_unit_of_hasCell {f : Frame} {sc : List ScanComp} {c : ScanComp} {row col i : Nat} (hc : c ∈ sc)
    (h : f.hasCell c.ci row col i = true) : ∃ u ∈ mcusUnits f sc 0 f.mcuCount, u.covers (cellAddr c.ci row col i) := by
  obtain ⟨-, hrow, hcol, hi⟩ := Frame.hasCell_iff.mp h
  rw [Frame.bh] at hrow
  rw [Frame.bw] at hcol
  have hv : 0 < (f.comp c.ci).v.toNat := Nat.pos_of_ne_zero fun h0 => by simp [h0] at hrow
  have hh : 0 < (f.comp c.ci).h.toNat := Nat.pos_of_ne_zero fun h0 => by simp [h0] at hcol
  have hr : row / (f.comp c.ci).v.toNat < f.mcuRows := Nat.div_lt_of_lt_mul (by rwa [Nat.mul_comm])
  have hk : col / (f.comp c.ci).h.toNat < f.mcuCols := Nat.div_lt_of_lt_mul (by rwa [Nat.mul_comm])
  have hcols : 0 < f.mcuCols := Nat.zero_lt_of_lt hk
  let mcu := col / (f.comp c.ci).h.toNat + f.mcuCols * (row / (f.comp c.ci).v.toNat)
  have hdiv : mcu / f.mcuCols = row / (f.comp c.ci).v.toNat := by
    rw [Nat.add_mul_div_left _ _ hcols, Nat.div_eq_of_lt hk, Nat.zero_add]
  have hmod : mcu % f.mcuCols = col / (f.comp c.ci).h.toNat := by
    rw [Nat.add_mul_mod_self_left, Nat.mod_eq_of_lt hk]
  have hmcu : mcu < f.mcuCount :=
    calc mcu < f.mcuCols + f.mcuCols * (row / (f.comp c.ci).v.toNat) := Nat.add_lt_add_right hk _
      _ = f.mcuCols * (row / (f.comp c.ci).v.toNat + 1) := by rw [Nat.mul_add, Nat.mul_one, Nat.add_comm]
      _ ≤ f.mcuCols * f.mcuRows := Nat.mul_le_mul_left _ hr
  refine ⟨{ ci := c.ci, td := c.td, ta := c.ta, row := row, col := col }, ?_, ⟨i, Nat.lt_succ_of_le hi⟩, rfl⟩
  refine List.mem_flatMap.mpr ⟨mcu, List.mem_range'_1.mpr ⟨Nat.zero_le _, by omega⟩, List.mem_flatMap.mpr ⟨c, hc, ?_⟩⟩
  refine List.mem_flatMap.mpr ⟨row % (f.comp c.ci).v.toNat, List.mem_range.mpr (Nat.mod_lt _ hv),
    List.mem_map.mpr ⟨col % (f.comp c.ci).h.toNat, List.mem_range.mpr (Nat.mod_lt _ hh), ?_⟩⟩
  rw [hdiv, hmod, Nat.div_add_mod', Nat.div_add_mod']

/-- A data unit of a scan is a block of one of its components (spec R196 to R198). -/
theorem hasCell_of_mem_mcusUnits {f : Frame} {sc : List ScanComp} {u : DataUnit} (hsc : ∀ c ∈ sc, c.ci.val < f.nf)
    (hu : u ∈ mcusUnits f sc 0 f.mcuCount) (i : Fin 64) :
    ∃ c ∈ sc, c.ci = u.ci ∧ f.hasCell c.ci u.row u.col i.val = true := by
  obtain ⟨mcu, hmcu, hmem⟩ := List.mem_flatMap.mp hu
  obtain ⟨c, hc, hunit⟩ := List.mem_flatMap.mp hmem
  obtain ⟨v, hv, hmap⟩ := List.mem_flatMap.mp hunit
  obtain ⟨h, hh, rfl⟩ := List.mem_map.mp hmap
  have hcount : mcu < f.mcuCols * f.mcuRows := by
    have hlt := (List.mem_range'_1.mp hmcu).2
    rwa [Nat.zero_add] at hlt
  have hrow : mcu / f.mcuCols < f.mcuRows := Nat.div_lt_of_lt_mul hcount
  have hcol : mcu % f.mcuCols < f.mcuCols :=
    Nat.mod_lt _ (Nat.pos_of_ne_zero fun h0 => by simp [h0] at hcount)
  refine ⟨c, hc, rfl, Frame.hasCell_iff.mpr ⟨hsc c hc, ?_, ?_, Nat.le_of_lt_succ i.isLt⟩⟩
  · exact lt_of_lt_of_le (Nat.add_lt_add_left (List.mem_range.mp hv) _)
      ((Nat.succ_mul _ _).symm.le.trans (Nat.mul_le_mul_right _ hrow))
  · exact lt_of_lt_of_le (Nat.add_lt_add_left (List.mem_range.mp hh) _)
      ((Nat.succ_mul _ _).symm.le.trans (Nat.mul_le_mul_right _ hcol))

/-! No scan of a legal frame is empty. -/

/-- No code word is empty (spec R161). -/
theorem HuffSlot.codeOf_ne_nil {slot : HuffSlot} {sym : Byte} : slot.codeOf sym ≠ some [] := by
  intro h
  rw [HuffSlot.codeOf] at h
  split at h
  · split at h
    · cases h
    · rename_i cs hcs
      obtain ⟨e, hfind, hcode⟩ := Option.map_eq_some_iff.mp h
      have hlen := congrArg List.length hcode
      rw [length_natToBits] at hlen
      have hmem := List.mem_of_find?_eq_some hfind
      exact absurd ((buildTable_mem_len hcs (List.of_mem_zip hmem).1).1) (by simp [hlen])
  · cases h

theorem blockBits_ne_nil {dc ac : HuffSlot} {pred : Int} {cb : Vector Int 64} : blockBits dc ac pred cb ≠ some [] := by
  intro h
  obtain ⟨d, a, hd, -, hnil⟩ := blockBits_eq_some h
  obtain ⟨rfl, -⟩ := List.append_eq_nil_iff.mp hnil.symm
  rw [dcBits] at hd
  split at hd
  · obtain ⟨code, hcode, happend⟩ := Option.map_eq_some_iff.mp hd
    obtain ⟨rfl, -⟩ := List.append_eq_nil_iff.mp happend
    exact HuffSlot.codeOf_ne_nil hcode
  · cases hd

theorem unitsBits_ne_nil {im : Image} {us : List DataUnit} {pred pred' : Vector Int 4} (hus : us ≠ []) :
    unitsBits im us pred ≠ some ([], pred') := by
  obtain ⟨u, us, rfl⟩ := List.exists_cons_of_ne_nil hus
  intro h
  rw [unitsBits] at h
  generalize im.plane.readBlock u.ci u.row u.col = cb at h
  split at h
  · rename_i bits rest _ hblock _
    obtain ⟨hnil, -⟩ := Prod.mk.inj (Option.some.inj h)
    obtain ⟨rfl, -⟩ := List.append_eq_nil_iff.mp hnil
    exact blockBits_ne_nil hblock
  · cases h

theorem entropyBytes_ne_nil {bits : List Bool} (h : bits ≠ []) : entropyBytes bits ≠ [] := by
  rw [entropyBytes_eq, dataBytes_of_ne_nil h, stuffed_cons]
  split <;> simp

theorem scanPieces_head_ne_nil {im : Image} {sc : List ScanComp} {n : Nat} {pred : Vector Int 4}
    {pieces : List (List Bool)} (hunits : mcuUnits im.frame sc 0 ≠ []) (hn : 0 < n)
    (h : scanPieces im sc 0 pred [] n = some pieces) : joinPieces 0 pieces ≠ [] := by
  obtain ⟨n, rfl⟩ := Nat.exists_eq_succ_of_ne_zero hn.ne'
  obtain ⟨bits, pred', hbits, ⟨hdue, -⟩ | ⟨-, hrest⟩⟩ := scanPieces_succ h
  · rw [restartDue] at hdue
    simp at hdue
  · obtain ⟨piece, rest, rfl, -⟩ := exists_of_scanPieces n hrest
    rw [joinPieces_eq]
    intro hnil
    refine entropyBytes_ne_nil (fun h0 => ?_) (List.append_eq_nil_iff.mp hnil).1
    rw [List.nil_append, List.append_eq_nil_iff] at h0
    obtain ⟨rfl, -⟩ := h0
    exact unitsBits_ne_nil hunits hbits

theorem ceilDiv_pos {a b : Nat} (ha : 0 < a) (hb : 0 < b) : 0 < ceilDiv a b :=
  Nat.div_pos (by omega) hb

/-- A legal frame has an MCU, and a scan of it a data unit in each (spec R189, R196). -/
theorem Frame.Legal.mcuCount_pos {f : Frame} (legal : f.Legal) : 0 < f.mcuCount := by
  have h0 : f.comp 0 ∈ f.comps := Frame.comp_mem legal.nf_pos
  obtain ⟨hh, -, hv, -⟩ := (Comp.ok_iff _).mp (legal.comps _ h0)
  have hhmax : 0 < f.hmax := hh.trans (Frame.h_le_hmax legal.nf_pos)
  have hvmax : 0 < f.vmax := hv.trans (Frame.v_le_vmax legal.nf_pos)
  exact Nat.mul_pos (ceilDiv_pos (half_toNat_pos legal.x) (by omega)) (ceilDiv_pos (half_toNat_pos legal.y) (by omega))

theorem Frame.Legal.mcuUnits_ne_nil {f : Frame} {sc : Scan} (legal : f.Legal) (hsc : sc.Legal f) (mcu : Nat) :
    mcuUnits f sc.sc mcu ≠ [] := by
  obtain ⟨c, rest, hcons⟩ := List.exists_cons_of_length_pos hsc.ns_pos
  have hc : c ∈ sc.sc := hcons ▸ List.mem_cons_self
  obtain ⟨hh, -, hv, -⟩ := (Comp.ok_iff _).mp (legal.comps _ (Frame.comp_mem (hsc.comps c hc)))
  refine List.ne_nil_of_mem (List.mem_flatMap.mpr ⟨c, hc, List.mem_flatMap.mpr ⟨0, List.mem_range.mpr hv,
    List.mem_map_of_mem (List.mem_range.mpr hh)⟩⟩)

/-- The entropy-coded bytes of a legal scan stand within the buffer. -/
theorem rp_le_of_holds_scanBytes {im : Image} {sc : Scan} {r : Reader} {bytes : List Byte} (legal : im.frame.Legal)
    (hscan : sc.Legal im.frame) (h0 : im.scan0 = sc) (hbytes : im.scanBytes = some bytes) (hholds : r.holds bytes = true) :
    r.rp ≤ r.inlen := by
  obtain ⟨pieces, hpieces, rfl⟩ := Option.map_eq_some_iff.mp hbytes
  rw [h0] at hpieces
  have hne := scanPieces_head_ne_nil (legal.mcuUnits_ne_nil hscan 0) legal.mcuCount_pos hpieces
  obtain ⟨rest, hrest⟩ := (Reader.holds_iff _ _).mp hholds
  by_contra hrp
  rw [List.drop_eq_nil_of_le (Nat.le_of_not_le hrp)] at hrest
  exact hne (List.append_eq_nil_iff.mp hrest.symm).1

/-! `decode_scan`. -/

/-- What a scan whose entropy-coded bytes end at `stop` leaves (spec R197, R198, R204). -/
structure State.ScanDecoded (s t : State) (source : Memory) (sc : List ScanComp) (stop : Nat) : Prop where
  scannedTo : s.ScannedTo t
  cells : ∀ c ∈ sc, ∀ row col i, s.image.frame.hasCell c.ci row col i = true →
    t.image.plane.read (cellAddr c.ci row col i) = source.read (cellAddr c.ci row col i)
  others : ∀ a, (∀ c ∈ sc, ∀ row col i, s.image.frame.hasCell c.ci row col i = true → a ≠ cellAddr c.ci row col i) →
    t.image.plane.read a = s.image.plane.read a
  rp : t.reader.rp = stop
  rcnt : t.reader.rcnt = 0

theorem decodeScan_run_bytes {s : State} {sc : Scan} {source : Memory} {bytes : List Byte} {scans : List Scan}
    (hplane : s.image.plane.wf = true) (hsc : ∀ c ∈ sc.sc, c.ci.val < s.image.frame.nf) (hrp : s.reader.rp ≤ s.reader.inlen)
    (hbytes : { s.image with plane := source, scans := sc :: scans }.scanBytes = some bytes)
    (hholds : s.reader.holds bytes = true) (hcancel : s.notCancelled s.image.frame.mcuCount = true) :
    ∃ t, (decodeScan sc.sc).run s = .ok () t ∧ s.ScanDecoded t source sc.sc (s.reader.rp + bytes.length) := by
  obtain ⟨pieces, hpieces, rfl⟩ := Option.map_eq_some_iff.mp hbytes
  obtain ⟨piece, pieces, rfl⟩ := List.exists_cons_of_ne_nil (scanPieces_ne_nil _ hpieces)
  let s1 : State := { s with reader := { s.reader with racc := 0, rcnt := 0 }
                             work := { s.work with pred := Vector.replicate 4 0, rstn := 0 } }
  obtain ⟨out, tail, k, hahead⟩ := Reader.ahead_of_holds (r := s1.reader) (n := 0) hholds rfl hrp
  have hpieces1 : scanPieces { s1.image with plane := source } sc.sc 0 s1.work.pred [] s.image.frame.mcuCount =
      some (piece :: pieces) :=
    (scanPieces_congr (im' := { s1.image with plane := source })
      (im := { s.image with plane := source, scans := sc :: scans }) rfl rfl rfl (fun _ _ => ⟨rfl, rfl⟩) _ _ _ _).trans hpieces
  obtain ⟨t, hrun, hto, hstop, hcopied⟩ := decodeMcus_run_pieces (sc := sc.sc) (source := source) _ 0 s1 piece pieces out tail k
    hcancel hpieces1 hahead
  refine ⟨{ t with reader := { t.reader with rcnt := 0 } }, ?_, ⟨hto.image, hto.inp, hto.status, hto.writer, hto.agent⟩,
    fun c hc row col i hcell => ?_, fun a ha => ?_, hstop, rfl⟩
  · rw [decodeScan, Proc.get_bind_run, Proc.bind_run_ok (brAttach_run _ s), Proc.bind_run_ok (scanBegin_run _),
      Proc.get_bind_run]
    exact (Proc.bind_run_ok hrun).trans (alignToByte_run t)
  · obtain ⟨u, hu, hcover⟩ := exists_unit_of_hasCell hc hcell
    exact hcopied.covered hplane u hu _ hcover
  · refine hcopied.other a fun u hu hcover => ?_
    obtain ⟨i, rfl⟩ := hcover
    obtain ⟨c, hc, hci, hcell⟩ := hasCell_of_mem_mcusUnits hsc hu i
    exact ha c hc _ _ _ hcell (by rw [hci])

theorem exec_decodeScan {s : State} (h : s.image.scans ≠ []) :
    exec .decodeScan s = runUnit (decodeScan s.image.lastScan.sc) s :=
  runUnit_require (decide_eq_true h) _ _ s

theorem sosRule_run_legal {s : State} {sc : Scan} (hframe : s.image.frame.valid = true) (hok : s.image.frame.ok = true)
    (hsc : sc.ok s.image.frame = true) (h : s.reader.holdsSegment (sosPayload s.image.frame sc) = true) :
    sosRule.run s = (decodeScan sc.sc).run { s.pastSegment (sosPayload s.image.frame sc) with
      image := { s.image with scans := s.image.scans ++ [sc] } } := by
  rw [sosRule, Proc.bind_run_ok (sosHeader_run_legal hframe hok hsc h), Proc.get_bind_run]
  simp [Image.lastScan]

/-- Settles O44: the reader has one piece after the other to deliver, and the data units of the MCUs are the cells of the
components. -/
theorem scanDecodesItsEntropyData : Obligations.ScanDecodesItsEntropyData := by
  refine ⟨fun s sc source bytes hok hplane hlast hbytes hholds hcancel => ?_,
    fun s sc source bytes hok hplane hframe hsc hbytes hsegment hholds hcancel => ?_⟩
  · have legal := (Image.ok_iff_legal _).mp hok
    have hmem : sc ∈ s.image.scans := List.mem_of_getLast? hlast
    have hne : s.image.scans ≠ [] := List.ne_nil_of_mem hmem
    have hscan := Scan.ok_iff_legal.mp (legal.scans sc hmem)
    have hrp := rp_le_of_holds_scanBytes (im := { s.image with plane := source, scans := [sc] })
      ((Frame.ok_iff_legal (legal.framed hne)).mp legal.frame) hscan rfl hbytes hholds
    obtain ⟨t, hrun, hdecoded⟩ := decodeScan_run_bytes hplane hscan.comps hrp hbytes hholds hcancel
    have hsc : s.image.lastScan = sc := by rw [Image.lastScan, hlast, Option.getD_some]
    rw [exec_decodeScan hne, hsc]
    exact ⟨_, runUnit_ok hrun, hdecoded.scannedTo.image, hdecoded.cells, hdecoded.others, hdecoded.scannedTo.inp, hdecoded.rp,
      hdecoded.rcnt, hdecoded.scannedTo.status, hdecoded.scannedTo.writer, hdecoded.scannedTo.agent⟩
  · have legal := (Image.ok_iff_legal _).mp hok
    have hscan := Scan.ok_iff_legal.mp hsc
    let s1 : State := { s.pastSegment (sosPayload s.image.frame sc) with
      image := { s.image with scans := s.image.scans ++ [sc] } }
    have hrp := rp_le_of_holds_scanBytes (im := { s.image with plane := source, scans := [sc] })
      ((Frame.ok_iff_legal hframe).mp legal.frame) hscan rfl hbytes hholds
    obtain ⟨t, hrun, hdecoded⟩ := decodeScan_run_bytes (s := s1) (scans := []) hplane hscan.comps hrp hbytes hholds hcancel
    rw [exec_sos]
    exact ⟨_, runUnit_ok ((sosRule_run_legal hframe legal.frame hsc hsegment).trans hrun), hdecoded.scannedTo.image,
      hdecoded.cells, hdecoded.others, hdecoded.scannedTo.inp, hdecoded.rcnt, hdecoded.rp, hdecoded.scannedTo.status,
      hdecoded.scannedTo.writer, hdecoded.scannedTo.agent⟩

end Sys2Proof.Machine
end

section
/-! PROOFS of the decoder: the stream of an image (spec R180 to R182, R207, R242, R261). -/

namespace Sys2Proof.Machine

/-! The walk over segments that its rules accept. -/

/-- The walk goes on from `t`, where it read these bytes from `s` on; the image is left open. -/
structure State.WalkedTo (s t : State) (bytes : List Byte) : Prop where
  walk_eq : Machine.walk.run s = Machine.walk.run t
  inp : t.reader.inp = s.reader.inp
  rp : t.reader.rp = s.reader.rp + bytes.length
  writer : t.writer = s.writer
  status : t.status = s.status
  agent : t.agent = s.agent
  port : t.port = s.port

theorem State.WalkedTo.refl (s : State) : s.WalkedTo s [] := ⟨rfl, rfl, rfl, rfl, rfl, rfl, rfl⟩

theorem State.WalkedTo.trans {s t u : State} {bytes more : List Byte} (h1 : s.WalkedTo t bytes) (h2 : t.WalkedTo u more) :
    s.WalkedTo u (bytes ++ more) :=
  ⟨h1.walk_eq.trans h2.walk_eq, h2.inp.trans h1.inp, by rw [h2.rp, h1.rp, List.length_append, Nat.add_assoc],
    h2.writer.trans h1.writer, h2.status.trans h1.status, h2.agent.trans h1.agent, h2.port.trans h1.port⟩

theorem State.WalkedTo.holds {s t : State} {bytes more : List Byte} (h : s.WalkedTo t bytes)
    (hholds : s.reader.holds (bytes ++ more) = true) : t.reader.holds more = true :=
  (Reader.holds_congr (r := { s.reader with rp := s.reader.rp + bytes.length }) h.inp h.rp _).trans
    ((Reader.holds_append_iff _ _ _).mp hholds).2

/-- The walk over one segment whose rule accepts it. -/
theorem walkedTo_segment {s : State} {m : Byte} {payload : List Byte} {im : Image} (hff : m ≠ 0xFF) (hzero : m ≠ 0x00)
    (hlen : payload.length ≤ 65533) (h : s.reader.holds (segmentBytes m payload) = true) (heoi : im.fEoi = false)
    (hrule : (s.atMarker 0).reader.holdsSegment payload = true →
      (markerRule (decodeMarkerCode m)).run (s.atMarker 0) = .ok () { s.pastMarkerSegment payload with image := im }) :
    ∃ t, s.WalkedTo t (segmentBytes m payload) ∧ t.image = im := by
  obtain ⟨hmarker, hsegment, -⟩ := holds_segmentBytes (more := []) (by rwa [List.append_nil]) hlen
  have honce : walkOnce.run s = .ok () { s.pastMarkerSegment payload with image := im } :=
    (walkOnce_run_of_holds (fills := 0) hmarker hff hzero).trans (hrule hsegment)
  refine ⟨{ s.pastMarkerSegment payload with image := im }, ⟨?_, rfl, ?_, rfl, rfl, rfl, rfl⟩, rfl⟩
  · rw [walk_run_of_ok honce, if_neg]
    exact fun h => absurd (heoi.symm.trans h) (by decide)
  · rw [length_segmentBytes]
    show s.reader.rp + 0 + 2 + (payload.length + 2) = _
    omega

/-- The walk over segments of one marker, each stored by its rule. -/
theorem walkedTo_segments {α : Type} {m : Byte} {payload : α → List Byte} {store : Image → α → Image} (hff : m ≠ 0xFF)
    (hzero : m ≠ 0x00) (hstore : ∀ im x, (store im x).fEoi = im.fEoi) (xs : List α) : ∀ s : State,
    (∀ x ∈ xs, (payload x).length ≤ 65533 ∧ ∀ s' : State, s'.reader.holdsSegment (payload x) = true →
      (markerRule (decodeMarkerCode m)).run s' =
        .ok () { s'.pastSegment (payload x) with image := store s'.image x }) →
    s.image.fEoi = false → s.reader.holds (xs.flatMap fun x => segmentBytes m (payload x)) = true →
    ∃ t, s.WalkedTo t (xs.flatMap fun x => segmentBytes m (payload x)) ∧ t.image = xs.foldl store s.image := by
  induction xs with
  | nil => exact fun s _ _ _ => ⟨s, .refl s, rfl⟩
  | cons x xs ih =>
    intro s hrules heoi h
    obtain ⟨hlen, hrule⟩ := hrules x List.mem_cons_self
    rw [List.flatMap_cons] at h ⊢
    obtain ⟨t1, hwalked1, himage1⟩ := walkedTo_segment hff hzero hlen ((Reader.holds_append_iff _ _ _).mp h).1
      ((hstore s.image x).trans heoi) fun hsegment => hrule (s.atMarker 0) hsegment
    obtain ⟨t, hwalked, himage⟩ := ih t1 (fun y hy => hrules y (List.mem_cons_of_mem x hy))
      (by rw [himage1, hstore, heoi]) (hwalked1.holds h)
    exact ⟨t, hwalked1.trans hwalked, by rw [himage, himage1, List.foldl_cons]⟩

/-! The parts of the stream. -/

theorem walkedTo_preserved {s : State} (records : List SegRecord) (heoi : s.image.fEoi = false)
    (hok : ∀ r ∈ records, r.ok = true) (h : s.reader.holds (recordBytes records) = true) :
    ∃ t, s.WalkedTo t (recordBytes records) ∧ t.image = { s.image with seg := s.image.seg ++ records } := by
  obtain ⟨t, hwalk, -, himage, hrp, hinp, -, hwriter, hstatus, hagent, hport⟩ :=
    walk_run_captured (more := []) records s heoi hok (by rwa [List.append_nil])
  exact ⟨t, ⟨hwalk, hinp, hrp, hwriter, hstatus, hagent, hport⟩, himage⟩

theorem length_dqtPayload_le (tq : Slot) (slot : QuantSlot) : (dqtPayload tq slot).length ≤ 65533 := by
  rw [dqtPayload_eq, List.length_cons, length_flatMap_const (length_quantEntryBytes slot), Vector.length_toList]
  have := slot.pq.isLt
  omega

theorem walkedTo_dqt {s : State} (tables : List (Slot × QuantSlot)) (heoi : s.image.fEoi = false)
    (hok : ∀ e ∈ tables, e.2.valid = true ∧ e.2.ok = true)
    (h : s.reader.holds (tables.flatMap fun e => segmentBytes 0xDB (dqtPayload e.1 e.2)) = true) :
    ∃ t, s.WalkedTo t (tables.flatMap fun e => segmentBytes 0xDB (dqtPayload e.1 e.2)) ∧
      t.image = s.image.storeQuants tables := by
  refine walkedTo_segments (store := fun im e => im.setQt e.1 e.2) (by decide) (by decide) (fun _ _ => rfl) tables s
    (fun e he => ⟨length_dqtPayload_le _ _, fun s' hsegment => ?_⟩) heoi h
  have hpayload : quantPayload [e] = dqtPayload e.1 e.2 := List.append_nil _
  have hrun := dqtRule_run_tables (s := s') (List.cons_ne_nil e []) (fun e' he' => List.mem_singleton.mp he' ▸ hok e he)
    (hpayload ▸ hsegment)
  rwa [hpayload] at hrun

theorem totalOf_le (counts : Vector Byte 16) : totalOf counts ≤ 4080 := by
  have hsum : ∀ l : List Byte, (l.map BitVec.toNat).sum ≤ 255 * l.length := by
    intro l
    induction l with
    | nil => exact le_rfl
    | cons b l ih =>
      have hb := b.isLt
      rw [List.map_cons, List.sum_cons, List.length_cons]
      omega
  have h := hsum counts.toList
  rw [Vector.length_toList] at h
  exact h

theorem length_dhtPayload_le {tc : TableClass} {th : Slot} {slot : HuffSlot} (hvalid : slot.valid = true)
    (hok : slot.ok = true) : (dhtPayload tc th slot).length ≤ 65533 := by
  have hlength : slot.values.length = totalOf slot.counts := by
    rw [HuffSlot.ok, hvalid] at hok
    simp at hok
    exact hok.1
  have htotal := totalOf_le slot.counts
  rw [dhtPayload, List.length_cons, List.length_append, Vector.length_toList, hlength]
  omega

theorem walkedTo_dht {s : State} (tables : List (TableClass × Slot × HuffSlot)) (heoi : s.image.fEoi = false)
    (hok : ∀ e ∈ tables, e.2.2.valid = true ∧ e.2.2.ok = true)
    (h : s.reader.holds (tables.flatMap fun e => segmentBytes 0xC4 (dhtPayload e.1 e.2.1 e.2.2)) = true) :
    ∃ t, s.WalkedTo t (tables.flatMap fun e => segmentBytes 0xC4 (dhtPayload e.1 e.2.1 e.2.2)) ∧
      t.image = s.image.storeHuffs tables := by
  refine walkedTo_segments (store := fun im e => im.setHt e.1 e.2.1 e.2.2) (by decide) (by decide)
    (fun _ _ => Image.setHt_fEoi _ _ _ _) tables s (fun e he => ⟨?_, fun s' hsegment => ?_⟩) heoi h
  · obtain ⟨hvalid, hslot⟩ := hok e he
    exact length_dhtPayload_le hvalid hslot
  · have hpayload : huffPayload [e] = dhtPayload e.1 e.2.1 e.2.2 := List.append_nil _
    have hrun := dhtRule_run_tables (s := s') (List.cons_ne_nil e []) (fun e' he' => List.mem_singleton.mp he' ▸ hok e he)
      (hpayload ▸ hsegment)
    rwa [hpayload] at hrun

theorem length_sof0Payload_le {f : Frame} (legal : f.Legal) : (sof0Payload f).length ≤ 65533 := by
  have hcomps : (f.comps.flatMap compBytes).length = 3 * f.nf :=
    length_flatMap_const (f := compBytes) (k := 3) (fun _ => rfl) _
  have hle := legal.nf_le
  rw [sof0Payload_eq, List.length_append, hcomps]
  simp only [be16Bytes, List.length_append, List.length_cons, List.length_nil]
  omega

theorem walkedTo_sof0 {s : State} {f : Frame} (heoi : s.image.fEoi = false) (hframe : s.image.frame.valid = false)
    (hvalid : f.valid = true) (hok : f.ok = true) (h : s.reader.holds (segmentBytes 0xC0 (sof0Payload f)) = true) :
    ∃ t, s.WalkedTo t (segmentBytes 0xC0 (sof0Payload f)) ∧ t.image = { s.image with frame := f, plane := [] } :=
  walkedTo_segment (im := { s.image with frame := f, plane := [] }) (by decide) (by decide)
    (length_sof0Payload_le ((Frame.ok_iff_legal hvalid).mp hok)) h heoi fun hsegment =>
      sof0Rule_run_legal (s := s.atMarker 0) hframe hvalid hok hsegment

/-- No DRI segment, no interval: the reset value stays (spec R192, R248). -/
theorem walkedTo_dri {s : State} {im : Image} (heoi : s.image.fEoi = false) (hri : s.image.ri = 0)
    (h : s.reader.holds im.driBytes = true) :
    ∃ t, s.WalkedTo t im.driBytes ∧ t.image = { s.image with ri := im.ri } := by
  rw [Image.driBytes] at h ⊢
  split
  · rename_i hzero
    exact ⟨s, .refl s, by rw [hzero, ← hri]⟩
  · rename_i hne
    rw [if_neg hne] at h
    refine walkedTo_segment (im := { s.image with ri := im.ri }) (by decide) (by decide) (Nat.le_of_ble_eq_true rfl) h heoi
      fun hsegment => (driRule_run_pair (s := s.atMarker 0) hsegment).trans ?_
    rw [be16_extract]
    rfl

/-! What the stored tables are. -/

theorem Image.storeQuants_eq (tables : List (Slot × QuantSlot)) : ∀ im : Image,
    im.storeQuants tables = { im with qt := (im.storeQuants tables).qt } := by
  induction tables with
  | nil => exact fun _ => rfl
  | cons e tables ih => exact fun im => ih (im.setQt e.1 e.2)

/-- Each stored table stands in its slot. -/
theorem Image.storeQuants_qt (source : Image) (ts : List Slot) : ∀ (im : Image) (t : Slot),
    t ∈ ts ∨ im.qt[t] = source.qt[t] → (im.storeQuants (ts.map fun t => (t, source.qt[t]))).qt[t] = source.qt[t] := by
  induction ts with
  | nil => exact fun im t h => h.resolve_left List.not_mem_nil
  | cons t' ts ih =>
    intro im t h
    refine ih (im.setQt t' source.qt[t']) t ?_
    by_cases heq : t = t'
    · subst heq
      exact .inr (Image.qt_setQt_same _ _ _)
    · rw [Image.qt_setQt_other _ _ _ _ (Ne.symm heq)]
      exact h.imp_left fun hmem => (List.mem_cons.mp hmem).resolve_left heq

theorem Image.storeHuffs_eq (tables : List (TableClass × Slot × HuffSlot)) : ∀ im : Image,
    im.storeHuffs tables = { im with htDc := (im.storeHuffs tables).htDc, htAc := (im.storeHuffs tables).htAc } := by
  induction tables with
  | nil => exact fun _ => rfl
  | cons e tables ih =>
    intro im
    have h := ih (im.setHt e.1 e.2.1 e.2.2)
    obtain ⟨tc, th, slot⟩ := e
    cases tc <;> exact h

theorem Image.storeHuffs_ht (source : Image) (ps : List (TableClass × Slot)) : ∀ (im : Image) (p : TableClass × Slot),
    p ∈ ps ∨ im.ht p.1 p.2 = source.ht p.1 p.2 →
    (im.storeHuffs (ps.map fun p => (p.1, p.2, source.ht p.1 p.2))).ht p.1 p.2 = source.ht p.1 p.2 := by
  induction ps with
  | nil => exact fun im p h => h.resolve_left List.not_mem_nil
  | cons p' ps ih =>
    intro im p h
    refine ih (im.setHt p'.1 p'.2 (source.ht p'.1 p'.2)) p ?_
    by_cases heq : p = p'
    · subst heq
      exact .inr (Image.ht_setHt_same _ _ _ _)
    · rw [Image.ht_setHt_other]
      · exact h.imp_left fun hmem => (List.mem_cons.mp hmem).resolve_left heq
      · exact fun ⟨hclass, hslot⟩ => heq (Prod.ext hclass.symm hslot.symm)

/-! The stream of an image. -/

/-- The Huffman tables that the scan names, with their classes (spec R246). -/
def huffPairs (im : Image) : List (TableClass × Slot) :=
  (usedHuff im .dc).map (fun t => (.dc, t)) ++ (usedHuff im .ac).map (fun t => (.ac, t))

theorem mem_huffPairs {im : Image} {tc : TableClass} {t : Slot} (h : t ∈ usedHuff im tc) : (tc, t) ∈ huffPairs im := by
  cases tc
  · exact List.mem_append_left _ (List.mem_map_of_mem h)
  · exact List.mem_append_right _ (List.mem_map_of_mem h)

theorem forall_mem_huffPairs {im : Image} {P : TableClass → Slot → Prop} (h : ∀ tc, ∀ t ∈ usedHuff im tc, P tc t) :
    ∀ p ∈ huffPairs im, P p.1 p.2 := by
  intro p hp
  rcases List.mem_append.mp hp with hp | hp <;> obtain ⟨t, ht, rfl⟩ := List.mem_map.mp hp
  · exact h .dc t ht
  · exact h .ac t ht

/-- The image that the segments in front of the scan header leave. -/
def headImage (start im : Image) : Image :=
  { (({ start with seg := start.seg ++ im.seg }.storeQuants ((usedQuant im).map fun t => (t, im.qt[t]))).storeHuffs
      ((huffPairs im).map fun (p : TableClass × Slot) => (p.1, p.2, im.ht p.1 p.2))) with
    frame := im.frame, plane := [], ri := im.ri }

theorem headImage_eq (start im : Image) : headImage start im =
    { start with seg := start.seg ++ im.seg, qt := (headImage start im).qt, htDc := (headImage start im).htDc
                 htAc := (headImage start im).htAc, frame := im.frame, plane := [], ri := im.ri } := by
  rw [headImage, Image.storeHuffs_eq, Image.storeQuants_eq]

theorem headImage_qt (start im : Image) {t : Slot} (h : t ∈ usedQuant im) : (headImage start im).qt[t] = im.qt[t] := by
  have hquants := Image.storeQuants_qt im (usedQuant im) { start with seg := start.seg ++ im.seg } t (.inl h)
  rw [headImage, Image.storeHuffs_eq]
  exact hquants

theorem headImage_ht (start im : Image) {tc : TableClass} {t : Slot} (h : t ∈ usedHuff im tc) :
    (headImage start im).ht tc t = im.ht tc t := by
  have hhuffs := Image.storeHuffs_ht im (huffPairs im)
    ({ start with seg := start.seg ++ im.seg }.storeQuants ((usedQuant im).map fun t => (t, im.qt[t]))) (tc, t)
    (.inl (mem_huffPairs h))
  cases tc <;> exact hhuffs

/-- The walk over everything in front of the scan header (spec R242). -/
theorem walkedTo_head {s : State} {im : Image} (legal : im.Legal) (hvalid : im.frame.valid = true)
    (hready : im.tablesReady = true) (heoi : s.image.fEoi = false) (hframe : s.image.frame.valid = false)
    (hri : s.image.ri = 0)
    (h : s.reader.holds (im.preservedBytes ++ (im.dqtBytes ++ (im.dhtBytes ++
      (segmentBytes 0xC0 (sof0Payload im.frame) ++ im.driBytes)))) = true) :
    ∃ t, s.WalkedTo t (im.preservedBytes ++ (im.dqtBytes ++ (im.dhtBytes ++
      (segmentBytes 0xC0 (sof0Payload im.frame) ++ im.driBytes)))) ∧ t.image = headImage s.image im := by
  rw [Image.tablesReady, Bool.and_eq_true, Bool.and_eq_true, List.all_eq_true, List.all_eq_true, List.all_eq_true] at hready
  obtain ⟨⟨hquant, hdc⟩, hac⟩ := hready
  have hheld := fun {r : Reader} {bytes more} => (Reader.holds_append_iff r bytes more).mp
  have hdqt : im.dqtBytes = ((usedQuant im).map fun t => (t, im.qt[t])).flatMap fun e =>
      segmentBytes 0xDB (dqtPayload e.1 e.2) := by rw [Image.dqtBytes, List.flatMap_map]
  have hdht : im.dhtBytes = ((huffPairs im).map fun p => (p.1, p.2, im.ht p.1 p.2)).flatMap fun e =>
      segmentBytes 0xC4 (dhtPayload e.1 e.2.1 e.2.2) := by
    rw [Image.dhtBytes, huffPairs, List.flatMap_map, List.flatMap_append, List.flatMap_map, List.flatMap_map]
  obtain ⟨t1, hwalked1, himage1⟩ := walkedTo_preserved im.seg heoi legal.seg (hheld h).1
  replace h := hwalked1.holds h
  rw [hdqt] at h ⊢
  obtain ⟨t2, hwalked2, himage2⟩ := walkedTo_dqt (s := t1) ((usedQuant im).map fun t => (t, im.qt[t])) (by rw [himage1, heoi])
    (fun e he => by
      obtain ⟨t, ht, rfl⟩ := List.mem_map.mp he
      exact ⟨hquant t ht, legal.qt t⟩) (hheld h).1
  replace h := hwalked2.holds h
  rw [hdht] at h ⊢
  obtain ⟨t3, hwalked3, himage3⟩ := walkedTo_dht (s := t2) ((huffPairs im).map fun p => (p.1, p.2, im.ht p.1 p.2))
    (by rw [himage2, Image.storeQuants_eq, himage1, heoi])
    (fun e he => by
      obtain ⟨p, hp, rfl⟩ := List.mem_map.mp he
      exact ⟨forall_mem_huffPairs (P := fun tc t => (im.ht tc t).valid = true) (fun tc => by cases tc <;> assumption) p hp,
        legal.ht p.1 p.2⟩) (hheld h).1
  replace h := hwalked3.holds h
  have heoi3 : t3.image.fEoi = false := by rw [himage3, Image.storeHuffs_eq, himage2, Image.storeQuants_eq, himage1, heoi]
  have hframe3 : t3.image.frame.valid = false := by
    rw [himage3, Image.storeHuffs_eq, himage2, Image.storeQuants_eq, himage1, hframe]
  have hri3 : t3.image.ri = 0 := by rw [himage3, Image.storeHuffs_eq, himage2, Image.storeQuants_eq, himage1, hri]
  obtain ⟨t4, hwalked4, himage4⟩ := walkedTo_sof0 (s := t3) heoi3 hframe3 hvalid legal.frame
    (hheld h).1
  obtain ⟨t, hwalked, himage⟩ := walkedTo_dri (s := t4) (im := im) (by rw [himage4, heoi3])
    (by rw [himage4, hri3]) (hwalked4.holds h)
  refine ⟨t, hwalked1.trans (hwalked2.trans (hwalked3.trans (hwalked4.trans hwalked))), ?_⟩
  rw [himage, himage4, himage3, himage2, himage1, headImage]

/-- The walk over the scan and EOI. -/
theorem walk_run_scan {s : State} {sc : Scan} {source : Memory} {data : List Byte} (hframe : s.image.frame.valid = true)
    (hok : s.image.frame.ok = true) (hsc : sc.ok s.image.frame = true) (hplane : s.image.plane.wf = true)
    (heoi : s.image.fEoi = false) (hdata : { s.image with plane := source, scans := [sc] }.scanBytes = some data)
    (hholds : s.reader.holds (segmentBytes 0xDA (sosPayload s.image.frame sc) ++ (data ++ [0xFF, 0xD9])) = true)
    (hcancel : s.notCancelled s.image.frame.mcuCount = true) :
    ∃ t, walk.run s = .ok () t ∧
      t.image = { s.image with plane := t.image.plane, scans := s.image.scans ++ [sc], fEoi := true } ∧
      (∀ c ∈ sc.sc, ∀ row col i, s.image.frame.hasCell c.ci row col i = true →
        t.image.plane.read (cellAddr c.ci row col i) = source.read (cellAddr c.ci row col i)) ∧
      (∀ a, (∀ c ∈ sc.sc, ∀ row col i, s.image.frame.hasCell c.ci row col i = true → a ≠ cellAddr c.ci row col i) →
        t.image.plane.read a = s.image.plane.read a) ∧
      t.reader.rp = s.reader.rp + (segmentBytes 0xDA (sosPayload s.image.frame sc) ++ data).length + 2 ∧
      t.writer = s.writer ∧ t.status = s.status ∧ t.agent = s.agent := by
  have hscan := Scan.ok_iff_legal.mp hsc
  have hlen : (sosPayload s.image.frame sc).length ≤ 65533 := by
    have hle := hscan.ns_le
    rw [sosPayload_eq]
    simp only [List.length_append, List.length_cons, length_flatMap_scanCompBytes]
    simp only [List.length_nil]
    omega
  obtain ⟨hmarker, hsegment, hbytes⟩ := holds_segmentBytes hholds hlen
  let s1 : State := { s.pastMarkerSegment (sosPayload s.image.frame sc) with
    image := { s.image with scans := s.image.scans ++ [sc] } }
  obtain ⟨hscanBytes, heoiBytes⟩ := (Reader.holds_append_iff _ _ _).mp hbytes
  have hrp := rp_le_of_holds_scanBytes (im := { s.image with plane := source, scans := [sc] })
    ((Frame.ok_iff_legal hframe).mp hok) hscan rfl hdata hscanBytes
  obtain ⟨t, hrun, hdecoded⟩ := decodeScan_run_bytes (s := s1) (scans := []) hplane hscan.comps hrp hdata hscanBytes hcancel
  have himage := hdecoded.scannedTo.image
  have hrule : markerRule (decodeMarkerCode 0xDA) = sosRule := rfl
  have honce : walkOnce.run s = .ok () t := by
    rw [walkOnce_run_of_holds (fills := 0) hmarker (by decide) (by decide), hrule]
    exact (sosRule_run_legal (s := s.atMarker 0) hframe hok hsc hsegment).trans hrun
  have hscans : t.image.scans ≠ [] := by
    rw [himage]
    exact List.append_ne_nil_of_right_ne_nil _ (List.cons_ne_nil _ _)
  have hend := walkOnce_run_eoi (s := t) hscans
    ((Reader.holds_congr (r := { s1.reader with rp := s1.reader.rp + data.length }) hdecoded.scannedTo.inp hdecoded.rp _).trans
      heoiBytes)
  refine ⟨{ t.atMarker 0 with image := { t.image with fEoi := true } }, ?_, ?_, hdecoded.cells, hdecoded.others, ?_,
    hdecoded.scannedTo.writer, hdecoded.scannedTo.status, hdecoded.scannedTo.agent⟩
  · have hcont : ¬ t.image.fEoi = true := by
      rw [himage]
      exact fun h => absurd (heoi.symm.trans h) (by decide)
    rw [walk_run_of_ok honce, if_neg hcont, walk_run_of_ok hend, if_pos rfl]
  · exact congrArg (fun im : Image => { im with fEoi := true }) himage
  · show t.reader.rp + 0 + 2 = _
    rw [hdecoded.rp, List.length_append, length_segmentBytes]
    show s.reader.rp + 0 + 2 + ((sosPayload s.image.frame sc).length + 2) + data.length + 0 + 2 = _
    omega

theorem mem_usedHuff {im : Image} {sc : Scan} (hscans : im.scans = [sc]) {c : ScanComp} (hc : c ∈ sc.sc) :
    c.td ∈ usedHuff im .dc ∧ c.ta ∈ usedHuff im .ac := by
  have hscan0 : im.scan0 = sc := by rw [Image.scan0, hscans, List.headD_cons]
  rw [usedHuff, usedHuff, hscan0, List.mem_filter, List.mem_filter, List.any_eq_true, List.any_eq_true]
  exact ⟨⟨List.mem_finRange _, c, hc, beq_self_eq_true _⟩, ⟨List.mem_finRange _, c, hc, beq_self_eq_true _⟩⟩

/-- Settles O45: the walk stores segment after segment, decodes the scan and ends at EOI. -/
theorem decodeReadsTheStreamOfAnImage : Obligations.DecodeReadsTheStreamOfAnImage := by
  intro s im sc data trailing hphase hok hvalid hscans hready hdata hcancel
  have legal := (Image.ok_iff_legal im).mp hok
  have hscan0 : im.scan0 = sc := by rw [Image.scan0, hscans, List.headD_cons]
  have hsc : sc.ok im.frame = true := legal.scans sc (by rw [hscans]; exact List.mem_cons_self)
  obtain ⟨rest, hbuf⟩ : ∃ rest, im.headBytes ++ data ++ [0xFF, 0xD9] ++ trailing = 0xFF :: 0xD8 :: rest ∧
      rest = (im.preservedBytes ++ (im.dqtBytes ++ (im.dhtBytes ++ (segmentBytes 0xC0 (sof0Payload im.frame) ++
        im.driBytes)))) ++ (segmentBytes 0xDA (sosPayload im.frame sc) ++ (data ++ [0xFF, 0xD9])) ++ trailing := by
    refine ⟨_, ?_, rfl⟩
    rw [Image.headBytes, hscan0]
    simp only [List.append_assoc, List.cons_append, List.nil_append]
  obtain ⟨hbuf, hrest⟩ := hbuf
  let s0 : State := { s.begun (0xFF :: 0xD8 :: rest) with
    reader := { (s.begun (0xFF :: 0xD8 :: rest)).reader with rp := 2 }
    image := { (s.begun (0xFF :: 0xD8 :: rest)).image with fSoi := true } }
  have hholds : s0.reader.holds _ = true := (Reader.holds_iff s0.reader _).mpr ⟨trailing, hrest⟩
  obtain ⟨t1, hwalked, himage1⟩ := walkedTo_head (s := s0) legal hvalid hready rfl rfl rfl
    ((Reader.holds_append_iff _ _ _).mp hholds).1
  rw [headImage_eq] at himage1
  have hframe1 : t1.image.frame = im.frame := by rw [himage1]
  have hht1 : ∀ tc, ∀ h ∈ usedHuff im tc, t1.image.ht tc h = im.ht tc h := by
    intro tc h hmem
    rw [himage1, ← headImage_ht s0.image im hmem]
    cases tc <;> rfl
  have hdata1 : { t1.image with plane := im.plane, scans := [sc] }.scanBytes = some data := by
    have hcongr := scanPieces_congr (im' := { t1.image with plane := im.plane, scans := [sc] }) (im := im) (sc := sc.sc)
      hframe1 (by rw [himage1]) rfl
      (fun c hc => ⟨hht1 .dc _ (mem_usedHuff hscans hc).1, hht1 .ac _ (mem_usedHuff hscans hc).2⟩) im.frame.mcuCount 0
      (Vector.replicate 4 0) []
    rw [← hdata, Image.scanBytes, Image.scanBytes, hscan0, ← hcongr]
    show Option.map _ (scanPieces _ sc.sc 0 _ [] t1.image.frame.mcuCount) = _
    rw [hframe1]
  obtain ⟨t, hrun, himage, hcells, hothers, hrp, hwriter, hstatus, hagent⟩ := walk_run_scan (s := t1) (sc := sc)
    (source := im.plane) (data := data) (by rw [hframe1, hvalid]) (by rw [hframe1]; exact legal.frame)
    (by rw [hframe1]; exact hsc) (by rw [himage1]; rfl) (by rw [himage1]; rfl) hdata1
    (by rw [hframe1]; exact hwalked.holds hholds)
    (by rw [hframe1, State.notCancelled, hwalked.port]; exact hcancel)
  rw [hframe1] at hcells hothers hrp
  have hcommand := (decodeCommandProc_run hphase (0xFF :: 0xD8 :: rest)).trans
    ((Proc.bind_run_ok (checkSoi_run_begun s rest)).trans (Proc.bind_run_ok (hwalked.walk_eq.trans hrun)))
  rw [himage1] at himage
  rw [hbuf, exec_decode]
  refine ⟨_, runUnit_ok (hcommand.trans (setPhase_run .decoded .command t)), rfl, fun herr => ?_, ?_, ?_, ?_, ?_, ?_, ?_,
    fun q hq => ?_, fun tc h hmem => ?_, hcells, fun a ha => (hothers a ha).trans ?_, ?_, hwriter.trans hwalked.writer,
    hagent.trans hwalked.agent⟩
  · show t.status.err = _
    rw [hstatus, hwalked.status]
    exact herr
  · show t.image.fSoi = true
    rw [himage]
  · show t.image.fEoi = true
    rw [himage]
  · show t.image.frame = im.frame
    rw [himage]
  · show t.image.scans = [sc]
    rw [himage]
    rfl
  · show t.image.ri = im.ri
    rw [himage]
  · show t.image.seg = im.seg
    rw [himage]
    rfl
  · show t.image.qt[q] = im.qt[q]
    rw [himage, ← headImage_qt s0.image im hq]
  · show t.image.ht tc h = im.ht tc h
    rw [himage, ← headImage_ht s0.image im hmem]
    cases tc <;> rfl
  · rw [himage1]
    rfl
  · show t.reader.rp = _
    rw [hrp, hwalked.rp, Image.headBytes, hscan0]
    show 2 + _ + _ + 2 = _
    simp only [List.length_append, List.length_cons, List.length_nil]
    omega

end Sys2Proof.Machine
end

section
/-! PROOFS of `CANCEL`: one sample for each MCU of a scan (spec R197, R206, R250, R260, R328). -/

namespace Sys2Proof.Machine

/-- `n` samples of `CANCEL` were taken between the two states, and all of them were 0 (spec R328). -/
structure Sampled (n : Nat) (s t : State) : Prop where
  zero : s.notCancelled n = true
  rest : t.port.cancel = s.port.cancel.drop n

theorem Sampled.none {s t : State} (h : t.port.cancel = s.port.cancel) : Sampled 0 s t := ⟨rfl, h⟩

theorem Sampled.trans {m n : Nat} {s t u : State} (h1 : Sampled m s t) (h2 : Sampled n t u) : Sampled (m + n) s u := by
  refine ⟨?_, by rw [h2.rest, h1.rest, List.drop_drop]⟩
  have hzero := h2.zero
  rw [State.notCancelled, h1.rest] at hzero
  rw [State.notCancelled, List.take_add, List.all_append, Bool.and_eq_true]
  exact ⟨h1.zero, hzero⟩

theorem Sampled.of_same {n : Nat} {s t u : State} (h : Sampled n t u) (hcancel : t.port.cancel = s.port.cancel) :
    Sampled n s u := by
  refine ⟨?_, by rw [h.rest, hcancel]⟩
  rw [State.notCancelled, ← hcancel]
  exact h.zero

theorem sampled_one {s t : State} (hhead : s.port.cancel.headD false = false) (h : t.port.cancel = s.port.cancel.tail) :
    Sampled 1 s t :=
  ⟨notCancelled_succ.mpr ⟨hhead, rfl⟩, by rw [h, List.drop_one]⟩

/-! Decoding. -/

theorem decodeUnits_ok_cancel (us : List DataUnit) : ∀ {s t : State} {x : Unit}, (decodeUnits us).run s = .ok x t →
    t.port.cancel = s.port.cancel := by
  induction us with
  | nil =>
    intro s t x h
    cases h
    rfl
  | cons u us ih =>
    intro s t x h
    obtain ⟨_, s1, hblock, hstore⟩ := Proc.bind_eq_ok h
    rw [Proc.bind_run_ok (storeBlock_run u s1)] at hstore
    exact (ih hstore).trans ((decodeBlock_moves _ _ _ s).ok _ _ hblock).same_cancel

theorem mcuBegin_run_cancelled {s : State} {mcu : Nat} (h : s.port.cancel.headD false = true) :
    ∃ pos u, (mcuBegin mcu).run s = .error (.raised .cancelled pos) u := by
  have hpoll := pollCancel_run (fun s => s.reader.rp) { s with work := { s.work with mcu := mcu } }
  rw [if_pos h] at hpoll
  exact ⟨_, _, (Proc.bind_run_ok (modifyWork_run _ s)).trans (Proc.bind_run_error hpoll)⟩

theorem mcuBegin_ok_sampled {s t : State} {mcu : Nat} {x : Unit} (h : (mcuBegin mcu).run s = .ok x t) : Sampled 1 s t := by
  cases hhead : s.port.cancel.headD false with
  | true =>
    obtain ⟨pos, u, hrun⟩ := mcuBegin_run_cancelled (mcu := mcu) hhead
    rw [hrun] at h
    cases h
  | false =>
    rw [mcuBegin_run hhead] at h
    refine sampled_one hhead ?_
    split at h
    · exact ((restart_moves _).ok _ _ h).same_cancel
    · cases h
      rfl

theorem decodeMcus_ok_sampled {sc : List ScanComp} (n : Nat) : ∀ {mcu : Nat} {s t : State} {x : Unit},
    (decodeMcus sc mcu n).run s = .ok x t → Sampled n s t := by
  induction n with
  | zero =>
    intro mcu s t x h
    cases h
    exact .none rfl
  | succ n ih =>
    intro mcu s t x h
    obtain ⟨_, s1, hbegin, hrest⟩ := Proc.bind_eq_ok h
    obtain ⟨_, s2, hunits, hmcus⟩ := Proc.bind_eq_ok (p := decodeUnits _) hrest
    rw [Nat.add_comm]
    exact (mcuBegin_ok_sampled hbegin).trans ((ih hmcus).of_same (decodeUnits_ok_cancel _ hunits))

/-- When the MCUs before one went well and `CANCEL` then is 1, the scan ends there (spec R197, R206). -/
theorem decodeMcus_run_cancelled {sc : List ScanComp} (n : Nat) : ∀ {mcu total : Nat} {s t : State} {x : Unit}, n < total →
    (decodeMcus sc mcu n).run s = .ok x t → t.port.cancel.headD false = true →
    ∃ pos u, (decodeMcus sc mcu total).run s = .error (.raised .cancelled pos) u := by
  induction n with
  | zero =>
    intro mcu total s t x hlt h hcancel
    obtain ⟨total, rfl⟩ := Nat.exists_eq_succ_of_ne_zero hlt.ne'
    cases h
    obtain ⟨pos, u, hrun⟩ := mcuBegin_run_cancelled (s := s) (mcu := mcu) hcancel
    exact ⟨pos, u, Proc.bind_run_error hrun⟩
  | succ n ih =>
    intro mcu total s t x hlt h hcancel
    obtain ⟨total, rfl⟩ := Nat.exists_eq_succ_of_ne_zero (Nat.zero_lt_of_lt hlt).ne'
    obtain ⟨_, s1, hbegin, hrest⟩ := Proc.bind_eq_ok h
    obtain ⟨_, s2, hunits, hmcus⟩ := Proc.bind_eq_ok (p := decodeUnits _) hrest
    rw [decodeMcus_run_succ total hbegin hunits]
    exact ih (Nat.lt_of_succ_lt_succ hlt) hmcus hcancel

theorem decodeScan_run (sc : List ScanComp) (s : State) :
    (decodeScan sc).run s = (decodeMcus sc 0 s.image.frame.mcuCount >>= fun _ => alignToByte).run
      { s with reader := { s.reader with racc := 0, rcnt := 0 }
               work := { s.work with pred := Vector.replicate 4 0, rstn := 0 } } := by
  rw [decodeScan, Proc.get_bind_run, Proc.bind_run_ok (brAttach_run _ s), Proc.bind_run_ok (scanBegin_run _),
    Proc.get_bind_run]

/-! Encoding. -/

theorem encodeUnits_ok_cancel {us : List DataUnit} {s t : State} {x : Unit} (h : (encodeUnits us).run s = .ok x t) :
    t.port.cancel = s.port.cancel := by
  cases hbits : unitsBits s.image us s.work.pred with
  | none =>
    obtain ⟨e, u, hrun⟩ := encodeUnits_run_none us s hbits
    rw [hrun] at h
    cases h
  | some p =>
    obtain ⟨w, hrun, -, -⟩ := encodeUnits_run_bits us s p.1 p.2 hbits
    rw [hrun] at h
    cases h
    rfl

theorem emitRestart_ok_cancel {s t : State} {x : Unit} (h : emitRestart.run s = .ok x t) :
    t.port.cancel = s.port.cancel := by
  obtain ⟨_, s1, hput, heffect⟩ := Proc.bind_eq_ok (p := putRaw _) h
  rw [putRaw_run] at hput
  split at hput <;> cases hput
  cases heffect
  rfl

theorem encodeMcuBegin_ok_sampled {s t : State} {mcu : Nat} {x : Unit} (h : (encodeMcuBegin mcu).run s = .ok x t) :
    Sampled 1 s t := by
  cases hhead : s.port.cancel.headD false with
  | true =>
    obtain ⟨u, hrun⟩ := encodeMcuBegin_run_cancelled (mcu := mcu) hhead
    rw [hrun] at h
    cases h
  | false =>
    rw [encodeMcuBegin_run hhead] at h
    refine sampled_one hhead ?_
    split at h
    · exact emitRestart_ok_cancel h
    · cases h
      rfl

theorem encodeMcus_ok_sampled {sc : List ScanComp} (n : Nat) : ∀ {mcu : Nat} {s t : State} {x : Unit},
    (encodeMcus sc mcu n).run s = .ok x t → Sampled n s t := by
  induction n with
  | zero =>
    intro mcu s t x h
    cases h
    exact .none rfl
  | succ n ih =>
    intro mcu s t x h
    obtain ⟨_, s1, hbegin, hrest⟩ := Proc.bind_eq_ok h
    obtain ⟨_, s2, hunits, hmcus⟩ := Proc.bind_eq_ok (p := encodeUnits _) hrest
    rw [Nat.add_comm]
    exact (encodeMcuBegin_ok_sampled hbegin).trans ((ih hmcus).of_same (encodeUnits_ok_cancel hunits))

/-- When the MCUs before one went well and `CANCEL` then is 1, the scan ends there (spec R250, R260). -/
theorem encodeMcus_run_cancelled {sc : List ScanComp} (n : Nat) : ∀ {mcu total : Nat} {s t : State} {x : Unit}, n < total →
    (encodeMcus sc mcu n).run s = .ok x t → t.port.cancel.headD false = true →
    ∃ pos u, (encodeMcus sc mcu total).run s = .error (.raised .cancelled pos) u := by
  induction n with
  | zero =>
    intro mcu total s t x hlt h hcancel
    obtain ⟨total, rfl⟩ := Nat.exists_eq_succ_of_ne_zero hlt.ne'
    cases h
    obtain ⟨u, hrun⟩ := encodeMcuBegin_run_cancelled (s := s) (mcu := mcu) hcancel
    exact ⟨mcu, u, Proc.bind_run_error hrun⟩
  | succ n ih =>
    intro mcu total s t x hlt h hcancel
    obtain ⟨total, rfl⟩ := Nat.exists_eq_succ_of_ne_zero (Nat.zero_lt_of_lt hlt).ne'
    obtain ⟨_, s1, hbegin, hrest⟩ := Proc.bind_eq_ok h
    obtain ⟨_, s2, hunits, hmcus⟩ := Proc.bind_eq_ok (p := encodeUnits _) hrest
    rw [encodeMcus_run_succ total hbegin hunits]
    exact ih (Nat.lt_of_succ_lt_succ hlt) hmcus hcancel

/-! Decoding what was encoded. -/

/-- An ENCODE that ends ok has written the stream of its image (spec R242). -/
theorem encodeStream_ok_bytes {s t : State} {u : Unit} (hcnt : s.writer.wcnt = 0) (hacc : s.writer.wacc = 0)
    (h : encodeStream.run s = .ok u t) : s.image.tablesReady = true ∧ ∃ data, s.image.scanBytes = some data ∧
      t.writer = { out := s.writer.out ++ s.image.headBytes ++ data ++ [0xFF, 0xD9], wacc := 0, wcnt := 0 } := by
  obtain ⟨hready, data, hdata⟩ := encodeStream_ok hcnt hacc h
  have hsampled : s.notCancelled s.image.frame.mcuCount = true := by
    rw [encodeStream_eq, Proc.bind_run_ok ((encodeHead_emits s.image).appends hready s hcnt rfl)] at h
    obtain ⟨_, s1, hscan, -⟩ := Proc.bind_eq_ok (p := encodeScan) h
    rw [encodeScan_run] at hscan
    exact (encodeMcus_ok_sampled _ hscan).zero
  obtain ⟨t', hrun, hwriter⟩ := encodeStream_run_bytes hcnt hacc hready hdata hsampled
  rw [hrun] at h
  cases h
  exact ⟨hready, data, hdata, hwriter⟩

/-- Settles O47: what an ENCODE that ends ok has written is the stream of the image, which DECODE reads. -/
theorem decodeOfEncodeRestoresTheImage : Obligations.DecodeOfEncodeRestoresTheImage := by
  intro s t s' sc hphase hok hvalid hscans hencode ht hphase' hcancel
  obtain ⟨reason, -, hexec⟩ | ⟨-, -, u, hrun, hexec⟩ | ⟨-, -, e, u, -, hexec⟩ := exec_encode_cases s <;>
    rw [hexec] at hencode <;> cases hencode
  · exact absurd ht (by rw [State.takeRefusal_status_phase]; decide)
  · obtain ⟨hready, data, hdata, hwriter⟩ := encodeStream_ok_bytes rfl rfl hrun
    have hout : u.writer.out = s.image.headBytes ++ data ++ [0xFF, 0xD9] ++ [] := by
      rw [hwriter, List.append_nil]
      rfl
    obtain ⟨v, hdecode, hdecoded, -, -, -, hframe, hscans', hri, hseg, hqt, hht, hcells, -⟩ :=
      decodeReadsTheStreamOfAnImage s' s.image sc data [] hphase' hok hvalid hscans hready hdata hcancel
    refine ⟨v, ?_, hdecoded, hframe, hscans', hri, hseg, hqt, hht, hcells⟩
    show exec (.decode u.writer.out) s' = _
    rw [hout]
    exact hdecode
  · exact absurd ht (takeStop_phase_ne e u .decoded (by decide) (by decide))

end Sys2Proof.Machine
end

section
/-! PROOFS of ENCODE: its output depends on the image and on `CANCEL` alone (spec R240, R259, R352). -/

namespace Sys2Proof.Machine

/-! What the coding of a scan needs of the working registers. -/

/-- The registers that an MCU of a scan begins with. -/
structure Work.SameScan (w1 w2 : Work) : Prop where
  pred : w1.pred = w2.pred
  rstn : w1.rstn = w2.rstn

/-- The registers that a data unit begins with. -/
structure Work.SameMcu (w1 w2 : Work) : Prop extends Work.SameScan w1 w2 where
  mcu : w1.mcu = w2.mcu

/-- The registers that the coding of a block begins with. -/
structure Work.SameBlock (w1 w2 : Work) : Prop extends Work.SameMcu w1 w2 where
  cb : w1.cb = w2.cb

/-- Any registers: what is asked of two runs that stop. -/
def Work.any (_ _ : Work) : Prop := True

theorem blockAlike_sameBlock : BlockAlike Work.any Work.SameBlock where
  stop _ := trivial
  mcu h := h.mcu
  cb h := h.cb
  pred h := h.pred
  setK _ h := ⟨⟨⟨h.pred, h.rstn⟩, h.mcu⟩, h.cb⟩
  setPred _ h := ⟨⟨⟨rfl, h.rstn⟩, h.mcu⟩, h.cb⟩

theorem Agree.mono {W W' : Work → Work → Prop} {s1 s2 : State} (h : Agree W s1 s2) (hw : ∀ {w1 w2}, W w1 w2 → W' w1 w2) :
    Agree W' s1 s2 := ⟨h.image, h.writer, h.cancel, hw h.work⟩

theorem Agree.any {W : Work → Work → Prop} {s1 s2 : State} (h : Agree W s1 s2) : Agree Work.any s1 s2 := h.mono fun _ => trivial

theorem Alike.mono {α : Type} {V W W' : Work → Work → Prop} {p1 p2 : Proc α} {s1 s2 : State} (h : Alike V W p1 p2 s1 s2)
    (hw : ∀ {w1 w2}, W w1 w2 → W' w1 w2) : Alike V W' p1 p2 s1 s2 := by
  obtain ⟨a, t1, t2, h1, h2, hagree⟩ | hstop := h
  · exact .inl ⟨a, t1, t2, h1, h2, hagree.mono hw⟩
  · exact .inr hstop

/-! The procedures of a scan. -/

theorem loadBlock_alike {s1 s2 : State} (u : DataUnit) (h : Agree Work.SameMcu s1 s2) :
    Alike Work.any Work.SameBlock (loadBlock u) (loadBlock u) s1 s2 := by
  have h1 := loadBlock_run u s1
  have h2 := loadBlock_run u s2
  have hcb : s1.image.plane.readBlock u.ci u.row u.col = s2.image.plane.readBlock u.ci u.row u.col := by rw [h.image]
  generalize s1.image.plane.readBlock u.ci u.row u.col = cb at h1 hcb
  generalize s2.image.plane.readBlock u.ci u.row u.col = cb' at h2 hcb
  subst hcb
  exact .inl ⟨(), _, _, h1, h2, h.image, h.writer, h.cancel, ⟨⟨h.work.pred, h.work.rstn⟩, h.work.mcu⟩, rfl⟩

theorem encodeUnits_alike (us : List DataUnit) : ∀ {s1 s2 : State}, Agree Work.SameMcu s1 s2 →
    Alike Work.any Work.SameMcu (encodeUnits us) (encodeUnits us) s1 s2 := by
  induction us with
  | nil => exact fun h => .pure () h
  | cons u us ih =>
    exact fun h => .bind (loadBlock_alike u h) fun _ _ _ ht =>
      .bind (encodeBlock_alike blockAlike_sameBlock u.ci u.td u.ta ht) fun _ _ _ hu => ih (hu.mono fun h => h.toSameMcu)

theorem putRaw_alike {W : Work → Work → Prop} {s1 s2 : State} (bytes : List Byte) (h : Agree W s1 s2) :
    Alike Work.any W (putRaw bytes) (putRaw bytes) s1 s2 := by
  have h1 := putRaw_run bytes s1
  have h2 := putRaw_run bytes s2
  rw [← h.writer] at h2
  split at h1
  · rw [if_pos ‹_›] at h2
    exact .inl ⟨(), _, _, h1, h2, h.image, rfl, h.cancel, h.work⟩
  · rw [if_neg ‹_›] at h2
    exact .inr ⟨_, s1, s2, h1, h2, h.any⟩

theorem flushWithPadding_alike {W : Work → Work → Prop} {s1 s2 : State} (h : Agree W s1 s2) :
    Alike Work.any W flushWithPadding flushWithPadding s1 s2 :=
  .inl ⟨(), _, _, flushWithPadding_run s1, flushWithPadding_run s2, h.image, congrArg Writer.flush h.writer, h.cancel, h.work⟩

theorem emitRestart_alike {s1 s2 : State} (h : Agree Work.SameMcu s1 s2) :
    Alike Work.any Work.SameMcu emitRestart emitRestart s1 s2 := by
  refine .bind (flushWithPadding_alike h) fun _ t1 t2 ht => .get_bind ?_
  rw [ht.work.rstn]
  refine .bind (putRaw_alike _ ht) fun _ u1 u2 hu => .modifyWork hu ?_
  exact ⟨⟨rfl, congrArg (· + 1) hu.work.rstn⟩, hu.work.mcu⟩

theorem pollCancel_alike {s1 s2 : State} (h : Agree Work.SameMcu s1 s2) :
    Alike Work.any Work.SameMcu (pollCancel fun s => s.work.mcu) (pollCancel fun s => s.work.mcu) s1 s2 := by
  have h1 := pollCancel_run (fun s => s.work.mcu) s1
  have h2 := pollCancel_run (fun s => s.work.mcu) s2
  rw [← h.cancel, ← h.work.mcu] at h2
  split at h1
  · rw [if_pos ‹_›] at h2
    exact .inr ⟨_, _, _, h1, h2, h.image, h.writer, rfl, trivial⟩
  · rw [if_neg ‹_›] at h2
    exact .inl ⟨(), _, _, h1, h2, h.image, h.writer, rfl, h.work⟩

theorem encodeMcuBegin_alike {s1 s2 : State} (mcu : Nat) (h : Agree Work.SameScan s1 s2) :
    Alike Work.any Work.SameMcu (encodeMcuBegin mcu) (encodeMcuBegin mcu) s1 s2 := by
  refine .bind (.modifyWork (W' := Work.SameMcu) h ⟨⟨h.work.pred, h.work.rstn⟩, rfl⟩) fun _ t1 t2 ht =>
    .bind (pollCancel_alike ht) fun _ u1 u2 hu => .get_bind ?_
  rw [hu.image]
  exact .ite (fun _ => emitRestart_alike hu) fun _ => .pure () hu

theorem encodeMcus_alike (sc : List ScanComp) (n : Nat) : ∀ (mcu : Nat) {s1 s2 : State}, Agree Work.SameScan s1 s2 →
    Alike Work.any Work.SameScan (encodeMcus sc mcu n) (encodeMcus sc mcu n) s1 s2 := by
  induction n with
  | zero => exact fun mcu s1 s2 h => .modifyWork h ⟨h.work.pred, h.work.rstn⟩
  | succ n ih =>
    intro mcu s1 s2 h
    refine .bind (encodeMcuBegin_alike mcu h) fun _ t1 t2 ht => .get_bind ?_
    rw [ht.image]
    exact .bind (encodeUnits_alike _ ht) fun _ u1 u2 hu => ih (mcu + 1) (hu.mono fun h => h.toSameScan)

theorem encodeScan_alike {s1 s2 : State} (h : Agree Work.any s1 s2) :
    Alike Work.any Work.SameScan encodeScan encodeScan s1 s2 := by
  have hbegin : Alike Work.any Work.SameScan scanBegin scanBegin s1 s2 :=
    .inl ⟨(), _, _, scanBegin_run s1, scanBegin_run s2, h.image, h.writer, h.cancel, rfl, rfl⟩
  refine .bind hbegin fun _ t1 t2 ht => .get_bind ?_
  rw [ht.image]
  exact encodeMcus_alike _ _ 0 ht

/-- Two encodes of one image with the same samples of `CANCEL` end alike (spec R240). -/
theorem encodeStream_alike {s1 s2 : State} (h : Agree Work.any s1 s2) (hcnt : s1.writer.wcnt = 0) :
    (∃ u t1 t2, encodeStream.run s1 = .ok u t1 ∧ encodeStream.run s2 = .ok u t2 ∧ t1.writer = t2.writer) ∨
    (∃ e t1 t2, encodeStream.run s1 = .error e t1 ∧ encodeStream.run s2 = .error e t2) := by
  have hcnt2 : s2.writer.wcnt = 0 := h.writer ▸ hcnt
  rw [encodeStream_eq]
  cases hready : s1.image.tablesReady with
  | false =>
    obtain ⟨t1, h1⟩ := (encodeHead_emits s1.image).refuses hready s1 hcnt rfl
    obtain ⟨t2, h2⟩ := (encodeHead_emits s1.image).refuses hready s2 hcnt2 h.image.symm
    exact .inr ⟨_, t1, t2, Proc.bind_run_error h1, Proc.bind_run_error h2⟩
  | true =>
    have h1 := (encodeHead_emits s1.image).appends hready s1 hcnt rfl
    have h2 := (encodeHead_emits s1.image).appends hready s2 hcnt2 h.image.symm
    have hhead : Agree Work.any (s1.emitted s1.image.headBytes) (s2.emitted s1.image.headBytes) :=
      ⟨h.image, by rw [State.emitted, State.emitted, h.writer], h.cancel, trivial⟩
    have hrest : Alike Work.any Work.any (encodeScan >>= fun _ => finalize) (encodeScan >>= fun _ => finalize)
        (s1.emitted s1.image.headBytes) (s2.emitted s1.image.headBytes) :=
      .bind (encodeScan_alike hhead) fun _ t1 t2 ht => .bind (flushWithPadding_alike ht.any) fun _ u1 u2 hu => putRaw_alike _ hu
    obtain ⟨u, t1, t2, g1, g2, hagree⟩ | ⟨e, t1, t2, g1, g2, -⟩ := hrest
    · exact .inl ⟨u, t1, t2, (Proc.bind_run_ok h1).trans g1, (Proc.bind_run_ok h2).trans g2, hagree.writer⟩
    · exact .inr ⟨e, t1, t2, (Proc.bind_run_ok h1).trans g1, (Proc.bind_run_ok h2).trans g2⟩

/-! ENCODE, however it ends. -/

theorem takeStop_writer (e : Stop) (s : State) : (takeStop e s).writer = s.writer.afterStop s.status.phase := by
  cases e <;> rfl

theorem takeStop_kept (e : Stop) (s : State) :
    (takeStop e s).image = s.image ∧ (takeStop e s).reader = s.reader ∧ (takeStop e s).agent = s.agent := by
  cases e <;> exact ⟨rfl, rfl, rfl⟩

theorem takeStop_phase (e : Stop) (s : State) :
    (takeStop e s).status.phase = .failed ∨ (takeStop e s).status.phase = .refused := by
  cases e
  · exact .inl rfl
  · exact .inr rfl

theorem takeStop_phase_eq (e : Stop) (s1 s2 : State) : (takeStop e s1).status.phase = (takeStop e s2).status.phase := by
  cases e <;> rfl

/-- A stopped encode leaves `OUT` empty (spec R259, R325). -/
theorem takeStop_encoding_out {s u : State} {e : Stop} (h : encodeStream.run s.encoding = .error e u) :
    (takeStop e u).writer.out = [] := by
  have hcoded := ((encodeStream_coded s.encoding).error e u h).1
  have hphase : u.status.phase = .busyEnc := by
    rw [hcoded.status]
    rfl
  rw [takeStop_writer, hphase, Writer.afterStop_busyEnc]
  rfl

theorem takeRefusal_encode_out (reason : Reason) (s : State) :
    (takeRefusal reason { s with writer := { s.writer with out := [] } }).writer.out = [] := by
  rw [State.takeRefusal_writer]
  show (Writer.afterStop { s.writer with out := [] } s.status.phase).out = []
  cases s.status.phase <;> rfl

theorem exec_encode_image {s t : State} (h : exec .encode s = .next t) :
    t.image = s.image ∧ t.reader = s.reader ∧ t.agent = s.agent := by
  obtain ⟨reason, -, hexec⟩ | ⟨-, -, u, hrun, hexec⟩ | ⟨-, -, e, u, hrun, hexec⟩ := exec_encode_cases s <;>
    rw [hexec] at h <;> cases h
  · exact ⟨rfl, rfl, rfl⟩
  · have hcoded := (encodeStream_coded _).ok _ _ hrun
    exact ⟨hcoded.image, hcoded.reader, hcoded.agent⟩
  · have hcoded := ((encodeStream_coded _).error _ _ hrun).1
    obtain ⟨himage, hreader, hagent⟩ := takeStop_kept e u
    exact ⟨himage.trans hcoded.image, hreader.trans hcoded.reader, hagent.trans hcoded.agent⟩

theorem exec_encode_out {s t : State} (h : exec .encode s = .next t) :
    t.status.phase = .decoded ∨ ((t.status.phase = .failed ∨ t.status.phase = .refused) ∧ t.writer.out = []) := by
  obtain ⟨reason, -, hexec⟩ | ⟨-, -, u, hrun, hexec⟩ | ⟨-, -, e, u, hrun, hexec⟩ := exec_encode_cases s <;>
    rw [hexec] at h <;> cases h
  · exact .inr ⟨.inr rfl, takeRefusal_encode_out reason s⟩
  · exact .inl rfl
  · exact .inr ⟨takeStop_phase e u, takeStop_encoding_out hrun⟩

theorem exec_encode_alike {s1 s2 t1 t2 : State} (hp1 : s1.status.phase = .decoded) (hp2 : s2.status.phase = .decoded)
    (himage : s1.image = s2.image) (hcancel : s1.port.cancel = s2.port.cancel) (h1 : exec .encode s1 = .next t1)
    (h2 : exec .encode s2 = .next t2) : t1.status.phase = t2.status.phase ∧ t1.writer.out = t2.writer.out := by
  by_cases hscan : s1.image.nscan = 1
  · have hscan2 : s2.image.nscan = 1 := himage ▸ hscan
    have hagree : Agree Work.any s1.encoding s2.encoding := ⟨himage, rfl, hcancel, trivial⟩
    have hc1 := encodeCommandProc_run hp1 hscan
    have hc2 := encodeCommandProc_run hp2 hscan2
    rw [exec_encode] at h1 h2
    obtain ⟨u, v1, v2, g1, g2, hwriter⟩ | ⟨e, v1, v2, g1, g2⟩ := encodeStream_alike hagree rfl
    · rw [runUnit_ok (hc1.trans (Proc.bind_run_ok g1))] at h1
      rw [runUnit_ok (hc2.trans (Proc.bind_run_ok g2))] at h2
      cases h1
      cases h2
      exact ⟨rfl, congrArg Writer.out hwriter⟩
    · rw [runUnit_error (hc1.trans (Proc.bind_run_error g1))] at h1
      rw [runUnit_error (hc2.trans (Proc.bind_run_error g2))] at h2
      cases h1
      cases h2
      exact ⟨takeStop_phase_eq e v1 v2, (takeStop_encoding_out g1).trans (takeStop_encoding_out g2).symm⟩
  · have hrefused := fun {s : State} hp hn => runUnit_error (e := .refused .scanCount) (s := s)
      (encodeCommandProc_run_of_nscan_ne hp hn)
    rw [exec_encode, hrefused hp1 hscan] at h1
    rw [exec_encode, hrefused hp2 (himage ▸ hscan)] at h2
    cases h1
    cases h2
    exact ⟨rfl, (takeRefusal_encode_out .scanCount s1).trans (takeRefusal_encode_out .scanCount s2).symm⟩

/-! The samples of `CANCEL`. -/

theorem exec_decodeScan_cancelled {s t : State} {sc : Scan} {n : Nat} (hlast : s.image.scans.getLast? = some sc)
    (hn : n < s.image.frame.mcuCount)
    (h : (do brAttach s.reader.rp; scanBegin; decodeMcus sc.sc 0 n : Proc Unit).run s = .ok () t)
    (hcancel : t.port.cancel.headD false = true) : ∃ u, exec .decodeScan s = .next u ∧ u.failedWith .cancelled := by
  have hne : s.image.scans ≠ [] := List.ne_nil_of_mem (List.mem_of_getLast? hlast)
  have hsc : s.image.lastScan = sc := by rw [Image.lastScan, hlast, Option.getD_some]
  rw [Proc.bind_run_ok (brAttach_run _ s), Proc.bind_run_ok (scanBegin_run _)] at h
  obtain ⟨pos, u, hrun⟩ := decodeMcus_run_cancelled n hn h hcancel
  rw [exec_decodeScan hne, hsc]
  exact runUnit_raised ((decodeScan_run sc.sc s).trans (Proc.bind_run_error hrun))

theorem exec_encodeScan_cancelled {s t : State} {n : Nat} (hscans : s.image.scans ≠ []) (hn : n < s.image.frame.mcuCount)
    (h : (do scanBegin; encodeMcus s.image.scan0.sc 0 n : Proc Unit).run s = .ok () t)
    (hcancel : t.port.cancel.headD false = true) : ∃ u, exec .encodeScan s = .next u ∧ u.failedWith .cancelled := by
  rw [Proc.bind_run_ok (scanBegin_run s)] at h
  obtain ⟨pos, u, hrun⟩ := encodeMcus_run_cancelled n hn h hcancel
  rw [exec_encodeScan hscans]
  exact runUnit_raised ((encodeScan_run s).trans hrun)

/-- A scan that ends ok has taken one sample for each MCU (spec R197, R250, R328). -/
theorem exec_scan_sampled {s t : State} {i : Instr} (hi : i ∈ [Instr.decodeScan, .encodeScan])
    (hfailed : s.status.phase ≠ .failed) (hrefused : s.status.phase ≠ .refused) (h : exec i s = .next t)
    (hstatus : t.status = s.status) :
    s.notCancelled s.image.frame.mcuCount = true ∧ t.port.cancel = s.port.cancel.drop s.image.frame.mcuCount := by
  suffices hok : ∃ u, Sampled s.image.frame.mcuCount s u ∧ t = u.returning .none by
    obtain ⟨u, hsampled, rfl⟩ := hok
    exact ⟨hsampled.zero, hsampled.rest⟩
  by_cases hscans : s.image.scans = []
  · have hrefusal : exec i s = .next (takeStop (.refused (Config.unstatedReason .noScanRecord)) s) := by
      have hno : ¬ decide (s.image.scans ≠ []) = true := by rw [hscans]; decide
      have hrun := fun p => runUnit_error (e := .refused (Config.unstatedReason .noScanRecord))
        ((require_bind_run _ .noScanRecord p s).trans (if_neg hno))
      rcases List.mem_pair.mp hi with rfl | rfl
      · exact hrun _
      · exact hrun _
    rw [hrefusal] at h
    cases h
    exact absurd (congrArg Status.phase hstatus) (takeStop_phase_ne _ s _ hfailed hrefused)
  · rcases List.mem_pair.mp hi with rfl | rfl
    · rw [exec_decodeScan hscans] at h
      obtain ⟨_, u, hrun, rfl⟩ | ⟨e, u, hrun, rfl⟩ := runProc_cases h
      · refine ⟨u, ?_, rfl⟩
        rw [decodeScan_run] at hrun
        obtain ⟨_, v, hmcus, halign⟩ := Proc.bind_eq_ok hrun
        cases halign
        have hsampled := decodeMcus_ok_sampled _ hmcus
        exact ⟨hsampled.zero, hsampled.rest⟩
      · exact absurd (congrArg Status.phase hstatus) (takeStop_phase_ne e u _ hfailed hrefused)
    · rw [exec_encodeScan hscans] at h
      obtain ⟨_, u, hrun, rfl⟩ | ⟨e, u, hrun, rfl⟩ := runProc_cases h
      · refine ⟨u, ?_, rfl⟩
        rw [encodeScan_run] at hrun
        have hsampled := encodeMcus_ok_sampled _ hrun
        exact ⟨hsampled.zero, hsampled.rest⟩
      · exact absurd (congrArg Status.phase hstatus) (takeStop_phase_ne e u _ hfailed hrefused)

end Sys2Proof.Machine
end

section
/-! PROOFS of the host agent: the modulation of a pair (spec R290, R294 to R299, R306). -/

namespace Sys2Proof.Machine

/-! Rounding. -/

theorem qround_near (d : Int) {delta : Nat} (hdelta : 1 ≤ delta) :
    2 * (d - qround d delta * (delta : Int)).natAbs ≤ delta := by
  obtain h | ⟨h, -⟩ := qround_near_or_tie_even d hdelta
  · exact h.le
  · exact h.le

/-- Whatever lies strictly within half a `δ` of a multiple rounds to it (spec R295). -/
theorem qround_of_near {delta : Nat} {q o : Int} (h : 2 * o.natAbs < delta) : qround (q * delta + o) delta = q := by
  have hnear := qround_near (q * delta + o) (delta := delta) (by omega)
  have hdiff : q * (delta : Int) + o - qround (q * delta + o) delta * delta =
      (q - qround (q * delta + o) delta) * delta + o := by
    rw [Int.sub_mul]
    omega
  rw [hdiff] at hnear
  generalize qround (q * delta + o) delta = q' at hnear ⊢
  by_contra hne
  have hone : 1 ≤ (q - q').natAbs := by omega
  have hmul : ((q - q') * (delta : Int)).natAbs = (q - q').natAbs * delta := by rw [Int.natAbs_mul, Int.natAbs_natCast]
  have hle : delta ≤ ((q - q') * (delta : Int)).natAbs := hmul ▸ Nat.le_mul_of_pos_left delta hone
  generalize (q - q') * (delta : Int) = m at hnear hle
  omega

/-! The modulation. -/

/-- The offset that two payload bits add to a multiple of `δ` (spec R296). -/
def bitsOffset (delta : Nat) (b1 b2 : Bool) : Int :=
  match b1, b2 with
  | false, false => ((delta / 4 : Nat) : Int)
  | false, true => ((3 * delta / 4 : Nat) : Int)
  | true, false => -((3 * delta / 4 : Nat) : Int)
  | true, true => -((delta / 4 : Nat) : Int)

theorem targetDiff_eq (d : Int) (delta : Nat) (b1 b2 : Bool) :
    targetDiff d delta b1 b2 = qround d delta * (delta : Int) + bitsOffset delta b1 b2 := by
  cases b1 <;> cases b2 <;> rfl

theorem clampCoef_eq_self_iff (n : Int) : clampCoef n = n ↔ -1024 ≤ n ∧ n ≤ 1023 := by
  rw [clampCoef]
  omega

theorem clampCoef_bounds (n : Int) : -1024 ≤ clampCoef n ∧ clampCoef n ≤ 1023 := by
  rw [clampCoef]
  omega

section
variable {delta : Nat} {a1 a2 x : Int} {b1 b2 : Bool}

/-- The pair before clamping has the target difference; clamping keeps it or the pair is skipped (spec R296, R297). -/
theorem embedPair_eq (hx : x = qround (a1 - a2) delta * (delta : Int) + bitsOffset delta b1 b2 - (a1 - a2)) :
    embedPair delta a1 a2 b1 b2 =
      if clampCoef (a1 + (x + 1) / 2) - (a1 + (x + 1) / 2) = clampCoef (a2 - x / 2) - (a2 - x / 2) then
        some (clampCoef (a1 + (x + 1) / 2), clampCoef (a2 - x / 2)) else none := by
  have htarget : targetDiff (a1 - a2) delta b1 b2 = x + (a1 - a2) := by rw [targetDiff_eq, hx]; omega
  have hceil : -(-x / 2) = (x + 1) / 2 := by omega
  rw [embedPair]
  simp only [htarget, Int.add_sub_cancel, hceil]
  generalize clampCoef (a1 + (x + 1) / 2) = c1
  generalize clampCoef (a2 - x / 2) = c2
  have hiff : c1 - c2 = x + (a1 - a2) ↔ c1 - (a1 + (x + 1) / 2) = c2 - (a2 - x / 2) := by omega
  simp only [hiff]

theorem embedPair_some {c1 c2 : Int} (h : embedPair delta a1 a2 b1 b2 = some (c1, c2)) :
    c1 - c2 = qround (a1 - a2) delta * (delta : Int) + bitsOffset delta b1 b2 ∧
      -1024 ≤ c1 ∧ c1 ≤ 1023 ∧ -1024 ≤ c2 ∧ c2 ≤ 1023 := by
  rw [embedPair] at h
  split at h
  · rename_i hdiff
    cases h
    obtain ⟨h1, h2⟩ := clampCoef_bounds (a1 + -(-(targetDiff (a1 - a2) delta b1 b2 - (a1 - a2)) / 2))
    obtain ⟨h3, h4⟩ := clampCoef_bounds (a2 - (targetDiff (a1 - a2) delta b1 b2 - (a1 - a2)) / 2)
    exact ⟨hdiff.trans (targetDiff_eq _ _ _ _), h1, h2, h3, h4⟩
  · cases h

theorem bitsOffset_bounds (delta : Nat) (b1 b2 : Bool) :
    -((3 * delta / 4 : Nat) : Int) ≤ bitsOffset delta b1 b2 ∧ bitsOffset delta b1 b2 ≤ ((3 * delta / 4 : Nat) : Int) := by
  have hle : delta / 4 ≤ 3 * delta / 4 := Nat.div_le_div_right (by omega)
  cases b1 <;> cases b2 <;> simp only [bitsOffset] <;> generalize delta / 4 = low at hle ⊢ <;>
    generalize 3 * delta / 4 = high at hle ⊢ <;> omega

/-- A pair that lies `δ` inside the range is not skipped (spec R297). -/
theorem embedPair_isSome (hdelta : 1 ≤ delta) (h1 : -1024 + (delta : Int) ≤ a1) (h2 : a1 ≤ 1023 - (delta : Int))
    (h3 : -1024 + (delta : Int) ≤ a2) (h4 : a2 ≤ 1023 - (delta : Int)) : embedPair delta a1 a2 b1 b2 ≠ none := by
  have hnear := qround_near (a1 - a2) hdelta
  obtain ⟨hlow, hhigh⟩ := bitsOffset_bounds delta b1 b2
  rw [embedPair_eq rfl]
  generalize qround (a1 - a2) delta * (delta : Int) = base at hnear ⊢
  generalize bitsOffset delta b1 b2 = offset at hlow hhigh ⊢
  have hn1 := (clampCoef_eq_self_iff (a1 + (base + offset - (a1 - a2) + 1) / 2)).mpr (by omega)
  have hn2 := (clampCoef_eq_self_iff (a2 - (base + offset - (a1 - a2)) / 2)).mpr (by omega)
  rw [hn1, hn2, if_pos (by omega)]
  exact Option.some_ne_none _

end

/-- Two bits are extracted from the remainder within half a `δ` of a multiple (spec R299). -/
theorem extractPair_of_near {delta : Nat} {c1 c2 q o : Int} (hdiff : c1 - c2 = q * delta + o) (h : 2 * o.natAbs < delta) :
    extractPair delta c1 c2 = if 0 ≤ o then (false, false) else (true, true) := by
  have hround : qround (c1 - c2) delta = q := hdiff ▸ qround_of_near h
  have hrest : c1 - c2 - q * delta = o := by omega
  rw [extractPair]
  simp only [hround, hrest, if_pos h]

/-- Literal extraction gives the second bit, twice (spec R299, R306). -/
theorem extractPair_embedPair {delta : Nat} {a1 a2 c1 c2 : Int} {b1 b2 : Bool} (hdelta : 4 ≤ delta)
    (h : embedPair delta a1 a2 b1 b2 = some (c1, c2)) : extractPair delta c1 c2 = (b2, b2) := by
  obtain ⟨hdiff, -⟩ := embedPair_some h
  generalize qround (a1 - a2) delta = q at hdiff
  match b1, b2 with
  | false, false =>
    rw [extractPair_of_near hdiff (by simp only [bitsOffset]; omega), if_pos (by simp only [bitsOffset]; omega)]
  | false, true =>
    have hnext : c1 - c2 = (q + 1) * delta + (((3 * delta / 4 : Nat) : Int) - delta) := by
      rw [hdiff, Int.add_mul, Int.one_mul]
      simp only [bitsOffset]
      omega
    rw [extractPair_of_near hnext (by omega), if_neg (by omega)]
  | true, false =>
    have hprev : c1 - c2 = (q - 1) * delta + (delta - ((3 * delta / 4 : Nat) : Int)) := by
      rw [hdiff, Int.sub_mul, Int.one_mul]
      simp only [bitsOffset]
      omega
    rw [extractPair_of_near hprev (by omega), if_pos (by omega)]
  | true, true =>
    rw [extractPair_of_near hdiff (by simp only [bitsOffset]; omega), if_neg (by simp only [bitsOffset]; omega)]

/-! The rows. -/

theorem exec_embedPair {s : State} (a1 a2 : Int) (b1 b2 : Bool) (h : s.agent.config.legal = true) :
    exec (.embedPair a1 a2 b1 b2) s = .next { s.returning (.pair (embedPair s.agent.config.delta a1 a2 b1 b2)) with
      agent := { s.agent with status := .ok } } := by
  refine runHost_ok _ (s' := s) ?_
  show EStateM.run (if s.agent.config.legal = true then _ else _) s = _
  rw [if_pos h]
  rfl

theorem exec_extractPair {s : State} (a1 a2 : Int) (h : s.agent.config.legal = true) :
    exec (.extractPair a1 a2) s = .next { s.returning (.bits [(extractPair s.agent.config.delta a1 a2).1,
      (extractPair s.agent.config.delta a1 a2).2]) with agent := { s.agent with status := .ok } } := by
  refine runHost_ok _ (s' := s) ?_
  show EStateM.run (if s.agent.config.legal = true then _ else _) s = _
  rw [if_pos h]
  rfl

theorem exec_pair_notRun {s : State} (a1 a2 : Int) (b1 b2 : Bool) (h : s.agent.config.legal = false) :
    exec (.embedPair a1 a2 b1 b2) s = .next s.notRun ∧ exec (.extractPair a1 a2) s = .next s.notRun := by
  have hne : ¬ s.agent.config.legal = true := by rw [h]; decide
  constructor
  · refine runHost_error _ (s' := s) (e := .notRun) ?_
    show EStateM.run (if s.agent.config.legal = true then _ else _) s = _
    rw [if_neg hne]
    rfl
  · refine runHost_error _ (s' := s) (e := .notRun) ?_
    show EStateM.run (if s.agent.config.legal = true then _ else _) s = _
    rw [if_neg hne]
    rfl

/-- Settles O52, by the difference a pair is given and what clamping makes of it. -/
theorem pairsAreModulated : Obligations.PairsAreModulated := by
  refine ⟨fun s a1 a2 b1 b2 h => ⟨exec_embedPair a1 a2 b1 b2 h, exec_extractPair a1 a2 h⟩,
    fun s a1 a2 b1 b2 h => exec_pair_notRun a1 a2 b1 b2 h, fun delta a1 a2 c1 c2 b1 b2 h => embedPair_some h,
    fun delta a1 a2 x b1 b2 hx => ?_, fun delta a1 a2 b1 b2 hdelta h1 h2 h3 h4 => embedPair_isSome hdelta h1 h2 h3 h4,
    fun delta a1 a2 c1 c2 b1 b2 hdelta h => extractPair_embedPair hdelta h⟩
  rw [embedPair_eq hx]
  intro n1 n2 inside moved
  show (inside n1 → inside n2 → (if moved n1 = moved n2 then some (clampCoef n1, clampCoef n2) else none) = some (n1, n2)) ∧
    (inside n1 → ¬ inside n2 → (if moved n1 = moved n2 then some (clampCoef n1, clampCoef n2) else none) = none) ∧
    (¬ inside n1 → inside n2 → (if moved n1 = moved n2 then some (clampCoef n1, clampCoef n2) else none) = none) ∧
    (¬ inside n1 → ¬ inside n2 → moved n1 ≠ moved n2 →
      (if moved n1 = moved n2 then some (clampCoef n1, clampCoef n2) else none) = none) ∧
    (¬ inside n1 → ¬ inside n2 → moved n1 = moved n2 →
      (if moved n1 = moved n2 then some (clampCoef n1, clampCoef n2) else none) = some (n1 + moved n1, n2 + moved n2))
  have hmoved : ∀ n, moved n = 0 ↔ inside n := fun n => sub_eq_zero.trans (clampCoef_eq_self_iff n)
  have hclamp : ∀ n, clampCoef n = n + moved n := fun n => (add_sub_cancel n (clampCoef n)).symm
  rw [hclamp, hclamp]
  refine ⟨fun h1 h2 => ?_, fun h1 h2 => if_neg fun h => ?_, fun h1 h2 => if_neg fun h => ?_, fun _ _ h => if_neg h,
    fun _ _ h => if_pos h⟩
  · rw [(hmoved n1).mpr h1, (hmoved n2).mpr h2, if_pos rfl, add_zero, add_zero]
  · exact h2 ((hmoved n2).mp (h ▸ (hmoved n1).mpr h1))
  · exact h1 ((hmoved n1).mp (h ▸ (hmoved n2).mpr h2))

end Sys2Proof.Machine
end

section
/-! PROOFS of the host agent: `embed` (spec R290 to R293, R297, R298, R301, R302). -/

namespace Sys2Proof.Machine

/-! Host procedures. -/

namespace HostProc

variable {α β : Type} {p : HostProc α} {s s' : State}

theorem bind_run_ok {a : α} {f : α → HostProc β} (h : p.run s = .ok a s') : (p >>= f).run s = (f a).run s' := by
  show EStateM.bind p f s = f a s'
  rw [EStateM.bind, show p s = .ok a s' from h]

theorem bind_run_error {e : HostStop} {f : α → HostProc β} (h : p.run s = .error e s') : (p >>= f).run s = .error e s' := by
  show EStateM.bind p f s = _
  rw [EStateM.bind, show p s = .error e s' from h]

theorem get_bind_run (f : State → HostProc β) : (get >>= f : HostProc β).run s = (f s).run s := rfl

end HostProc

/-- The state after a sample of `CANCEL` (spec R328). -/
def State.sampled (s : State) : State := { s with port := { s.port with cancel := s.port.cancel.tail } }

theorem hostCancelled_run (s : State) : hostCancelled.run s = .ok (s.port.cancel.headD false) s.sampled := rfl

theorem readPair_run (t : Slot) (idx : Nat) (s : State) : (readPair t idx).run s = .ok (s.pairOf t idx) s := rfl

/-- The state with a pair written (spec R302). -/
def State.withPair (s : State) (t : Slot) (idx : Nat) (v : Int × Int) : State :=
  let cells := pairCells s.image.frame t s.agent.config.k idx
  { s with image := { s.image with plane := (s.image.plane.write cells.1 v.1).write cells.2 v.2 } }

theorem writePair_run (t : Slot) (idx : Nat) (v : Int × Int) (s : State) :
    (writePair t idx v).run s = .ok () (s.withPair t idx v) := rfl

theorem zeroPair_eq (skip : Bool) (a : Int × Int) : (skip && a.1 = 0 && a.2 = 0) = (skip && a == (0, 0)) := by
  rw [Bool.and_assoc]
  congr 1

theorem State.hostReady_iff {s : State} {t : Slot} : s.hostReady t = true ↔
    s.status.phase = .decoded ∧ s.agent.config.legal = true ∧ s.image.frame.findComp s.agent.config.component = some t := by
  rw [State.hostReady, Bool.and_eq_true, Bool.and_eq_true, beq_iff_eq, beq_iff_eq, and_assoc]

theorem hostTarget_run_ready {s : State} {t : Slot} (h : s.hostReady t = true) : hostTarget.run s = .ok t s := by
  obtain ⟨hphase, hlegal, hcomp⟩ := State.hostReady_iff.mp h
  rw [hostTarget, HostProc.get_bind_run, hphase, hlegal, hcomp]
  rfl

theorem hostTarget_run_notRun {s : State} (h : s.status.phase ≠ .decoded ∨ s.agent.config.legal = false ∨
    s.image.frame.findComp s.agent.config.component = none) : hostTarget.run s = .error .notRun s := by
  rw [hostTarget, HostProc.get_bind_run]
  by_cases hcond : (s.status.phase ≠ .decoded || s.agent.config.legal = false) = true
  · rw [if_pos hcond]
    rfl
  · rw [if_neg hcond]
    rw [Bool.or_eq_true, decide_eq_true_eq, decide_eq_true_eq, not_or] at hcond
    obtain ⟨hphase, hlegal⟩ := hcond
    rw [(h.resolve_left hphase).resolve_left hlegal]
    rfl

/-- A procedure of the host that begins with its target does not run without it (spec R290, R291). -/
theorem runHost_notRun {α : Type} {value : α → Value} {f : Slot → HostProc α} {s : State}
    (h : s.status.phase ≠ .decoded ∨ s.agent.config.legal = false ∨
      s.image.frame.findComp s.agent.config.component = none) :
    runHost value (hostTarget >>= f) s = .next s.notRun :=
  runHost_error value (HostProc.bind_run_error (hostTarget_run_notRun h))

/-! The pairs. -/

theorem AgentConfig.legal_iff (c : AgentConfig) :
    c.legal = true ↔ 1 ≤ c.delta ∧ 2 ≤ c.k ∧ c.k ≤ 62 ∧ c.k % 2 = 0 := by
  simp only [AgentConfig.legal, Bool.and_eq_true, decide_eq_true_eq, and_assoc]

theorem Frame.nw_lt {f : Frame} {c : Nat} (h : c < f.nf) : f.nw c < 65536 := by
  have hle := Frame.h_le_hmax h
  have hx := f.x.isLt
  have hprod : f.x.toNat * (f.comp c).h.toNat ≤ 65535 * f.hmax := Nat.mul_le_mul (by omega) hle
  rw [Frame.nw, ceilDiv]
  by_cases hmax : f.hmax = 0
  · simp [hmax]
  · exact Nat.div_lt_of_lt_mul (by omega)

/-- The cells of a pair (spec R292, R293). -/
def IsPairCell (f : Frame) (t : Slot) (k idx a : Nat) : Prop := a = (pairCells f t k idx).1 ∨ a = (pairCells f t k idx).2

/-- The cells of different pairs are different (spec R292, R293). -/
theorem pairCells_inj {f : Frame} {t : Slot} {k i j a : Nat} (hk : 2 ≤ k) (hk62 : k ≤ 62) (hpos : 0 < f.nw t)
    (hlt : f.nw t < 65536) (hi : IsPairCell f t k i a) (hj : IsPairCell f t k j a) : i = j := by
  have hmodi := Nat.mod_lt i (show 0 < k / 2 by omega)
  have hmodj := Nat.mod_lt j (show 0 < k / 2 by omega)
  have hcoli := Nat.mod_lt (i / (k / 2)) hpos
  have hcolj := Nat.mod_lt (j / (k / 2)) hpos
  have hdivi := Nat.div_add_mod (i / (k / 2)) (f.nw t)
  have hdivj := Nat.div_add_mod (j / (k / 2)) (f.nw t)
  have hidxi := Nat.div_add_mod i (k / 2)
  have hidxj := Nat.div_add_mod j (k / 2)
  simp only [IsPairCell, pairCells, cellAddr] at hi hj
  generalize i / (k / 2) % f.nw t = coli at *
  generalize j / (k / 2) % f.nw t = colj at *
  generalize i / (k / 2) / f.nw t = rowi at *
  generalize j / (k / 2) / f.nw t = rowj at *
  generalize i % (k / 2) = qi at *
  generalize j % (k / 2) = qj at *
  have hq : qi = qj := by omega
  have hcol : coli = colj := by omega
  have hrow : rowi = rowj := by omega
  rw [← hidxi, ← hidxj, ← hdivi, ← hdivj, hq, hcol, hrow]

theorem pairCells_ne (f : Frame) (t : Slot) (k idx : Nat) : (pairCells f t k idx).1 ≠ (pairCells f t k idx).2 := by
  simp only [pairCells, cellAddr]
  omega

/-- The grid of pairs: an even `K` in range and a component that the frame has (spec R290 to R293). -/
structure PairGrid (f : Frame) (t : Slot) (k : Nat) : Prop where
  low : 2 ≤ k
  high : k ≤ 62
  even : k % 2 = 0
  comp : t.val < f.nf

theorem PairGrid.of_hostReady {s : State} {t : Slot} (h : s.hostReady t = true) :
    PairGrid s.image.frame t s.agent.config.k := by
  obtain ⟨-, hlegal, hcomp⟩ := State.hostReady_iff.mp h
  obtain ⟨-, hlow, hhigh, heven⟩ := (AgentConfig.legal_iff _).mp hlegal
  exact ⟨hlow, hhigh, heven, (Frame.findComp_lt hcomp).1⟩

theorem PairGrid.inj {f : Frame} {t : Slot} {k i j a : Nat} (h : PairGrid f t k) (hlt : i < pairCount f t k)
    (hi : IsPairCell f t k i a) (hj : IsPairCell f t k j a) : i = j := by
  refine pairCells_inj h.low h.high (Nat.pos_of_ne_zero fun h0 => ?_) (Frame.nw_lt h.comp) hi hj
  rw [pairCount, lumaBlocks, h0, Nat.zero_mul, Nat.zero_mul] at hlt
  exact Nat.not_lt_zero _ hlt

section
variable {s : State} {t : Slot} {idx : Nat} {v : Int × Int}

theorem State.withPair_pairOf_same (hwf : s.image.plane.wf = true) : (s.withPair t idx v).pairOf t idx = v := by
  have hne := pairCells_ne s.image.frame t s.agent.config.k idx
  refine Prod.ext ?_ ?_
  · exact (Memory.read_write_other _ _ _ _ hne).trans (Memory.read_write_same _ _ _ hwf)
  · exact Memory.read_write_same _ _ _ (Memory.wf_write _ _ _ hwf)

theorem State.withPair_read_other {a : Nat} (h : ¬ IsPairCell s.image.frame t s.agent.config.k idx a) :
    (s.withPair t idx v).image.plane.read a = s.image.plane.read a := by
  obtain ⟨h1, h2⟩ := not_or.mp h
  exact (Memory.read_write_other _ _ _ _ h2).trans (Memory.read_write_other _ _ _ _ h1)

theorem State.withPair_wf (hwf : s.image.plane.wf = true) : (s.withPair t idx v).image.plane.wf = true :=
  Memory.wf_write _ _ _ (Memory.wf_write _ _ _ hwf)

end

/-! The pair loop. -/

section
variable (t : Slot) (idx : Nat) (b1 b2 : Bool) (rest : List Bool) (clamped written : Bool) (n : Nat) {s : State}

theorem embedFrom_run_cancelled (h : s.port.cancel.headD false = true) :
    (embedFrom t idx (b1 :: b2 :: rest) clamped written (n + 1)).run s = .error (.fail .cancelled idx written) s.sampled := by
  rw [embedFrom, HostProc.bind_run_ok (hostCancelled_run s), h]
  rfl

/-- A pair that `CANCEL` lets the host look at (spec R297, R298, R302). -/
theorem embedFrom_run_succ (h : s.port.cancel.headD false = false) :
    (embedFrom t idx (b1 :: b2 :: rest) clamped written (n + 1)).run s =
      if (s.agent.config.skipZero && s.pairOf t idx == (0, 0)) = true then
        (embedFrom t (idx + 1) (b1 :: b2 :: rest) clamped written n).run s.sampled
      else match embedPair s.agent.config.delta (s.pairOf t idx).1 (s.pairOf t idx).2 b1 b2 with
        | none => (embedFrom t (idx + 1) (b1 :: b2 :: rest) true written n).run s.sampled
        | some v => (embedFrom t (idx + 1) rest clamped true n).run (s.sampled.withPair t idx v) := by
  rw [embedFrom, HostProc.bind_run_ok (hostCancelled_run s), h, if_neg Bool.false_ne_true,
    HostProc.bind_run_ok (readPair_run t idx s.sampled), HostProc.get_bind_run]
  dsimp only
  rw [zeroPair_eq]
  have hpair : s.sampled.pairOf t idx = s.pairOf t idx := rfl
  have hconfig : s.sampled.agent.config = s.agent.config := rfl
  rw [hpair, hconfig]
  split
  · rfl
  · cases embedPair s.agent.config.delta (s.pairOf t idx).1 (s.pairOf t idx).2 b1 b2 with
    | none => rfl
    | some v => exact HostProc.bind_run_ok (writePair_run t idx v s.sampled)

end

theorem embedFrom_run_nil (t : Slot) (idx : Nat) (clamped written : Bool) (n : Nat) (s : State) :
    (embedFrom t idx [] clamped written n).run s = .ok () s := by
  cases n <;> rfl

/-! `embedRun`. -/

theorem embedRun_nil (cfg : AgentConfig) (ps : List (Int × Int)) : embedRun cfg ps [] = (ps, [], false) := by
  cases ps <;> rfl

theorem embedRun_cons (cfg : AgentConfig) (p : Int × Int) (ps : List (Int × Int)) (b1 b2 : Bool) (rest : List Bool) :
    embedRun cfg (p :: ps) (b1 :: b2 :: rest) =
      if (cfg.skipZero && p == (0, 0)) = true then
        (p :: (embedRun cfg ps (b1 :: b2 :: rest)).1, (embedRun cfg ps (b1 :: b2 :: rest)).2)
      else match embedPair cfg.delta p.1 p.2 b1 b2 with
        | none => (p :: (embedRun cfg ps (b1 :: b2 :: rest)).1, (embedRun cfg ps (b1 :: b2 :: rest)).2.1, true)
        | some v => (v :: (embedRun cfg ps rest).1, (embedRun cfg ps rest).2) := by
  rw [embedRun] <;> rfl

/-- The bits left are the last ones, a whole number of pairs embedded. -/
theorem embedRun_left (cfg : AgentConfig) (ps : List (Int × Int)) : ∀ bits : List Bool,
    ∃ j, (embedRun cfg ps bits).2.1 = bits.drop (2 * j) := by
  induction ps with
  | nil => exact fun bits => ⟨0, by cases bits <;> rfl⟩
  | cons p ps ih =>
    intro bits
    match bits with
    | [] => exact ⟨0, rfl⟩
    | [b] => exact ⟨0, rfl⟩
    | b1 :: b2 :: rest =>
      rw [embedRun_cons]
      split
      · exact ih (b1 :: b2 :: rest)
      · split
        · exact ih (b1 :: b2 :: rest)
        · obtain ⟨j, hj⟩ := ih rest
          exact ⟨j + 1, hj⟩

/-! The pair loop over a part of the pairs. -/

/-- `embedRun` over `m` pairs of a state from index `idx` on. -/
def State.embedRunOf (s : State) (t : Slot) (idx m : Nat) (bits : List Bool) : List (Int × Int) × List Bool × Bool :=
  embedRun s.agent.config ((List.range' idx m).map (s.pairOf t)) bits

/-- What `embed` keeps while it writes cells (spec R302). -/
structure State.CellsWritten (s u : State) : Prop where
  image : u.image = { s.image with plane := u.image.plane }
  wf : s.image.plane.wf = true → u.image.plane.wf = true
  status : u.status = s.status
  reader : u.reader = s.reader
  writer : u.writer = s.writer
  work : u.work = s.work
  agent : u.agent = s.agent

theorem State.CellsWritten.refl (s : State) : s.CellsWritten s := ⟨rfl, id, rfl, rfl, rfl, rfl, rfl⟩

theorem State.CellsWritten.trans {s t u : State} (h1 : s.CellsWritten t) (h2 : t.CellsWritten u) : s.CellsWritten u :=
  ⟨h2.image.trans (by rw [h1.image]), h2.wf ∘ h1.wf, h2.status.trans h1.status, h2.reader.trans h1.reader,
    h2.writer.trans h1.writer, h2.work.trans h1.work, h2.agent.trans h1.agent⟩

theorem State.CellsWritten.pairOf_eq {s u : State} {t : Slot} {i : Nat} (h : s.CellsWritten u)
    (hread : ∀ a, IsPairCell s.image.frame t s.agent.config.k i a → u.image.plane.read a = s.image.plane.read a) :
    u.pairOf t i = s.pairOf t i := by
  have hframe : u.image.frame = s.image.frame := by rw [h.image]
  rw [State.pairOf, State.pairOf, hframe, h.agent, hread _ (.inl rfl), hread _ (.inr rfl)]

/-- The state `u` is `s` with bits embedded in `m` pairs from index `idx` on (spec R302). -/
structure State.Embedded (s u : State) (t : Slot) (idx m : Nat) (bits : List Bool) : Prop where
  kept : s.CellsWritten u
  pairs : (List.range' idx m).map (u.pairOf t) = (s.embedRunOf t idx m bits).1
  others : ∀ a, (∀ i, idx ≤ i → i < idx + m → ¬ IsPairCell s.image.frame t s.agent.config.k i a) →
    u.image.plane.read a = s.image.plane.read a
  untouched : (s.embedRunOf t idx m bits).2.1 = bits → u.image = s.image
  cancel : (s.embedRunOf t idx m bits).2.1 ≠ [] → u.port.cancel = s.port.cancel.drop m

theorem State.embedded_nil (s : State) (t : Slot) (idx m : Nat) : s.Embedded s t idx m [] := by
  have hrun : s.embedRunOf t idx m [] = ((List.range' idx m).map (s.pairOf t), [], false) := embedRun_nil _ _
  exact ⟨.refl s, by rw [hrun], fun _ _ => rfl, fun _ => rfl, fun h => absurd (by rw [hrun]) h⟩

theorem State.embedded_zero (s : State) (t : Slot) (idx : Nat) (bits : List Bool) : s.Embedded s t idx 0 bits :=
  ⟨.refl s, by cases bits <;> rfl, fun _ _ => rfl, fun _ => rfl, fun _ => rfl⟩

section
variable {s u : State} {t : Slot} {idx m : Nat} {bits rest : List Bool}

/-- The pair at the front is not touched by what follows. -/
theorem State.Embedded.pairOf_front (grid : PairGrid s.image.frame t s.agent.config.k) (hlt : idx < s.pairsIn t)
    (h : s.Embedded u t (idx + 1) m bits) : u.pairOf t idx = s.pairOf t idx :=
  h.kept.pairOf_eq fun a ha => h.others a fun i hi _ hcell => by
    have := grid.inj hlt ha hcell
    omega

/-- A pair passed over (spec R297, R298). -/
theorem State.Embedded.passed (grid : PairGrid s.image.frame t s.agent.config.k) (hlt : idx < s.pairsIn t)
    (hpairs : (s.embedRunOf t idx (m + 1) bits).1 = s.pairOf t idx :: (s.embedRunOf t (idx + 1) m bits).1)
    (hleft : (s.embedRunOf t idx (m + 1) bits).2.1 = (s.embedRunOf t (idx + 1) m bits).2.1)
    (h : s.sampled.Embedded u t (idx + 1) m bits) : s.Embedded u t idx (m + 1) bits where
  kept := .trans (t := s.sampled) ⟨rfl, id, rfl, rfl, rfl, rfl, rfl⟩ h.kept
  pairs := by
    have hfront : u.pairOf t idx = s.pairOf t idx := State.Embedded.pairOf_front (s := s.sampled) grid hlt h
    rw [List.range'_succ, List.map_cons, hfront, hpairs]
    exact congrArg _ h.pairs
  others a ha := h.others a fun i hi hi' => ha i (by omega) (by omega)
  untouched heq := h.untouched (hleft.symm.trans heq)
  cancel hne := by
    rw [hleft] at hne
    rw [h.cancel hne]
    exact List.drop_tail

/-- A pair written (spec R302). -/
theorem State.Embedded.written {v : Int × Int} {b1 b2 : Bool} (grid : PairGrid s.image.frame t s.agent.config.k)
    (hlt : idx < s.pairsIn t) (hwf : s.image.plane.wf = true)
    (hrun : s.embedRunOf t idx (m + 1) (b1 :: b2 :: rest) =
      (v :: (s.embedRunOf t (idx + 1) m rest).1, (s.embedRunOf t (idx + 1) m rest).2))
    (hsame : (s.sampled.withPair t idx v).embedRunOf t (idx + 1) m rest = s.embedRunOf t (idx + 1) m rest)
    (h : (s.sampled.withPair t idx v).Embedded u t (idx + 1) m rest) :
    s.Embedded u t idx (m + 1) (b1 :: b2 :: rest) where
  kept := .trans (t := s.sampled.withPair t idx v)
    ⟨rfl, fun hwf => State.withPair_wf (s := s.sampled) hwf, rfl, rfl, rfl, rfl, rfl⟩ h.kept
  pairs := by
    have hfront : u.pairOf t idx = v :=
      (State.Embedded.pairOf_front (s := s.sampled.withPair t idx v) grid hlt h).trans
        (State.withPair_pairOf_same (s := s.sampled) hwf)
    rw [List.range'_succ, List.map_cons, hfront, hrun, ← hsame]
    exact congrArg _ h.pairs
  others a ha := (h.others a fun i hi hi' => ha i (by omega) (by omega)).trans
    (State.withPair_read_other (s := s.sampled) (ha idx le_rfl (by omega)))
  untouched heq := by
    obtain ⟨j, hj⟩ := embedRun_left s.agent.config ((List.range' (idx + 1) m).map (s.pairOf t)) rest
    rw [hrun] at heq
    have hlen := congrArg List.length (hj.symm.trans heq)
    rw [List.length_drop, List.length_cons, List.length_cons] at hlen
    omega
  cancel hne := by
    rw [hrun, ← hsame] at hne
    rw [h.cancel hne]
    exact List.drop_tail

theorem State.embedRunOf_withPair {v : Int × Int} (grid : PairGrid s.image.frame t s.agent.config.k)
    (hlt : idx < s.pairsIn t) :
    (s.sampled.withPair t idx v).embedRunOf t (idx + 1) m rest = s.embedRunOf t (idx + 1) m rest := by
  rw [State.embedRunOf, State.embedRunOf]
  refine congrArg (fun ps => embedRun s.agent.config ps rest) (List.map_congr_left fun i hi => ?_)
  have hle := (List.mem_range'_1.mp hi).1
  have hread : ∀ a, IsPairCell s.image.frame t s.agent.config.k i a →
      (s.sampled.withPair t idx v).image.plane.read a = s.image.plane.read a := fun a ha =>
    State.withPair_read_other (s := s.sampled) fun hcell => by
      have := grid.inj hlt hcell ha
      omega
  exact Prod.ext (hread _ (.inl rfl)) (hread _ (.inr rfl))

end

theorem State.embedRunOf_succ (s : State) (t : Slot) (idx m : Nat) (b1 b2 : Bool) (rest : List Bool) :
    s.embedRunOf t idx (m + 1) (b1 :: b2 :: rest) =
      if (s.agent.config.skipZero && s.pairOf t idx == (0, 0)) = true then
        (s.pairOf t idx :: (s.embedRunOf t (idx + 1) m (b1 :: b2 :: rest)).1,
          (s.embedRunOf t (idx + 1) m (b1 :: b2 :: rest)).2)
      else match embedPair s.agent.config.delta (s.pairOf t idx).1 (s.pairOf t idx).2 b1 b2 with
        | none => (s.pairOf t idx :: (s.embedRunOf t (idx + 1) m (b1 :: b2 :: rest)).1,
            (s.embedRunOf t (idx + 1) m (b1 :: b2 :: rest)).2.1, true)
        | some v => (v :: (s.embedRunOf t (idx + 1) m rest).1, (s.embedRunOf t (idx + 1) m rest).2) := by
  rw [State.embedRunOf, List.range'_succ, List.map_cons, embedRun_cons] <;> rfl

/-- The pair loop over `m` pairs, and then over the others with the bits that are left (spec R302). -/
theorem embedFrom_run_part {t : Slot} (m : Nat) : ∀ (s : State) (idx : Nat) (bits : List Bool) (clamped written : Bool)
    (r : Nat), PairGrid s.image.frame t s.agent.config.k → s.image.plane.wf = true → idx + m ≤ s.pairsIn t →
    bits.length % 2 = 0 → s.notCancelled m = true →
    ∃ u, (embedFrom t idx bits clamped written (m + r)).run s =
        (embedFrom t (idx + m) (s.embedRunOf t idx m bits).2.1 (clamped || (s.embedRunOf t idx m bits).2.2)
          (written || decide ((s.embedRunOf t idx m bits).2.1 ≠ bits)) r).run u ∧ s.Embedded u t idx m bits := by
  induction m with
  | zero =>
    intro s idx bits clamped written r _ _ _ _ _
    have hrun : s.embedRunOf t idx 0 bits = ([], bits, false) := by cases bits <;> rfl
    refine ⟨s, ?_, s.embedded_zero t idx bits⟩
    rw [hrun]
    simp
  | succ m ih =>
    intro s idx bits clamped written r grid hwf hle heven hcancel
    obtain ⟨hhead, htail⟩ := notCancelled_succ.mp hcancel
    have hlt : idx < s.pairsIn t := by omega
    match bits with
    | [] =>
      refine ⟨s, ?_, s.embedded_nil t idx (m + 1)⟩
      have hrun : s.embedRunOf t idx (m + 1) [] = ((List.range' idx (m + 1)).map (s.pairOf t), [], false) := embedRun_nil _ _
      rw [hrun, embedFrom_run_nil, embedFrom_run_nil]
    | [b] => exact absurd heven (by simp)
    | b1 :: b2 :: rest =>
      have hsucc := s.embedRunOf_succ t idx m b1 b2 rest
      have hstep := embedFrom_run_succ t idx b1 b2 rest clamped written (m + r) hhead
      rw [Nat.add_right_comm m 1 r, show idx + (m + 1) = idx + 1 + m by omega, hstep]
      by_cases hzero : (s.agent.config.skipZero && s.pairOf t idx == (0, 0)) = true
      · rw [if_pos hzero] at hsucc ⊢
        obtain ⟨u, hrun, hu⟩ := ih s.sampled (idx + 1) (b1 :: b2 :: rest) clamped written r grid hwf
          (by show _ ≤ s.pairsIn t; omega) heven htail
        refine ⟨u, ?_, State.Embedded.passed grid hlt (by rw [hsucc]) (by rw [hsucc]) hu⟩
        rw [hrun, hsucc]
        rfl
      · rw [if_neg hzero] at hsucc ⊢
        cases hpair : embedPair s.agent.config.delta (s.pairOf t idx).1 (s.pairOf t idx).2 b1 b2 with
        | none =>
          rw [hpair] at hsucc
          obtain ⟨u, hrun, hu⟩ := ih s.sampled (idx + 1) (b1 :: b2 :: rest) true written r grid hwf
            (by show _ ≤ s.pairsIn t; omega) heven htail
          refine ⟨u, ?_, State.Embedded.passed grid hlt (by rw [hsucc]) (by rw [hsucc]) hu⟩
          dsimp only at hsucc ⊢
          rw [hrun, hsucc, Bool.true_or, Bool.or_true]
          rfl
        | some v =>
          rw [hpair] at hsucc
          have hsame := State.embedRunOf_withPair (v := v) (m := m) (rest := rest) grid hlt
          obtain ⟨u, hrun, hu⟩ := ih (s.sampled.withPair t idx v) (idx + 1) rest clamped true r grid
            (State.withPair_wf (s := s.sampled) hwf) (by show _ ≤ s.pairsIn t; omega)
            (by rw [List.length_cons, List.length_cons] at heven; omega) htail
          have hembedded := State.Embedded.written grid hlt hwf hsucc hsame hu
          refine ⟨u, ?_, hembedded⟩
          have hne : (s.embedRunOf t (idx + 1) m rest).2.1 ≠ b1 :: b2 :: rest := by
            obtain ⟨j, hj⟩ := embedRun_left s.agent.config ((List.range' (idx + 1) m).map (s.pairOf t)) rest
            intro heq
            have hlen := congrArg List.length (hj.symm.trans heq)
            rw [List.length_drop, List.length_cons, List.length_cons] at hlen
            omega
          dsimp only at hsucc ⊢
          rw [hrun, hsucc, hsame, decide_eq_true hne, Bool.true_or, Bool.or_true]

end Sys2Proof.Machine
end

section
/-! PROOFS of the host agent: `embed` settled (spec R290 to R293, R297, R298, R301, R302). -/

namespace Sys2Proof.Machine

theorem embedFrom_run_zero (t : Slot) (idx : Nat) {bits : List Bool} (clamped written : Bool) (s : State) (h : bits ≠ []) :
    (embedFrom t idx bits clamped written 0).run s =
      .error (if clamped then .fail .clampingExhausted (idx - 1) written else .fail .payloadTooLarge 0 written) s := by
  rw [embedFrom, if_neg h]
  cases clamped <;> rfl

theorem embed_run {s : State} {t : Slot} (payload : List Byte) (h : s.hostReady t = true) :
    (embed payload).run s =
      if lumaBlocks s.image.frame t * s.agent.config.k / 8 < payload.length + 4 then
        .error (.fail .payloadTooLarge 0 false) s
      else (embedFrom t 0 (bytesToBits (frameBytes payload)) false false (s.pairsIn t)).run s := by
  rw [embed, HostProc.bind_run_ok (hostTarget_run_ready h), HostProc.get_bind_run]
  dsimp only
  split <;> rfl

theorem exec_embed (payload : List Byte) (s : State) :
    exec (.embed payload) s = runHost (fun _ => Value.none) (embed payload) s := by rfl

theorem length_frameBits_even (payload : List Byte) : (bytesToBits (frameBytes payload)).length % 2 = 0 := by
  rw [length_bytesToBits]
  omega

/-! How a failure of the host is taken. -/

section
variable (kind : ErrKind) (context : Nat) (written : Bool) (s : State)

theorem takeHostStop_agent :
    (takeHostStop (.fail kind context written) s).agent = { s.agent with status := .failed kind context } := by
  cases written <;> rfl

theorem takeHostStop_image :
    (takeHostStop (.fail kind context written) s).image = if written then Image.reset else s.image := by
  cases written <;> rfl

theorem takeHostStop_status :
    (takeHostStop (.fail kind context written) s).status = if written then Status.reset else s.status := by
  cases written <;> rfl

end

/-- A failure after bits were embedded discards the image, one before leaves it (spec R302). -/
theorem State.Embedded.stopped {s u v : State} {t : Slot} {m context : Nat} {bits : List Bool} {kind : ErrKind}
    {payload : List Byte} (h : s.Embedded u t 0 m bits) (himage : v.image = u.image) (hstatus : v.status = u.status)
    (hrun : (embed payload).run s =
      .error (.fail kind context (decide ((s.embedRunOf t 0 m bits).2.1 ≠ bits))) v) :
    ∃ w context, exec (.embed payload) s = .next w ∧ w.agent.status = .failed kind context ∧
      ((s.embedRunOf t 0 m bits).2.1 = bits → w.image = s.image ∧ w.status = s.status) ∧
      ((s.embedRunOf t 0 m bits).2.1 ≠ bits → w.image = Image.reset ∧ w.status = Status.reset) := by
  refine ⟨_, context, (exec_embed payload s).trans (runHost_error _ hrun), ?_, fun heq => ?_, fun hne => ?_⟩
  · rw [takeHostStop_agent]
  · rw [takeHostStop_image, takeHostStop_status, decide_eq_false (not_not.mpr heq)]
    exact ⟨himage.trans (h.untouched heq), hstatus.trans h.kept.status⟩
  · rw [takeHostStop_image, takeHostStop_status, decide_eq_true hne]
    exact ⟨rfl, rfl⟩

/-- `embed` up to a pair (spec R302). -/
theorem embed_run_part {s : State} {t : Slot} {payload : List Byte} (m r : Nat) (hready : s.hostReady t = true)
    (hwf : s.image.plane.wf = true) (hfits : payload.length + 4 ≤ lumaBlocks s.image.frame t * s.agent.config.k / 8)
    (hpairs : m + r = s.pairsIn t) (hcancel : s.notCancelled m = true) :
    ∃ u, s.Embedded u t 0 m (bytesToBits (frameBytes payload)) ∧
      (embed payload).run s =
        (embedFrom t m (s.embedRunOf t 0 m (bytesToBits (frameBytes payload))).2.1
          (s.embedRunOf t 0 m (bytesToBits (frameBytes payload))).2.2
          (decide ((s.embedRunOf t 0 m (bytesToBits (frameBytes payload))).2.1 ≠ bytesToBits (frameBytes payload)))
          r).run u := by
  obtain ⟨u, hrun, hu⟩ := embedFrom_run_part m s 0 (bytesToBits (frameBytes payload)) false false r
    (PairGrid.of_hostReady hready) hwf (by omega) (length_frameBits_even payload) hcancel
  refine ⟨u, hu, ?_⟩
  rw [embed_run payload hready, if_neg (Nat.not_lt.mpr hfits), ← hpairs, hrun, Nat.zero_add, Bool.false_or, Bool.false_or]

theorem State.embedRunOf_zero (s : State) (t : Slot) (m : Nat) (bits : List Bool) :
    s.embedRunOf t 0 m bits = embedRun s.agent.config ((List.range m).map (s.pairOf t)) bits := by
  rw [State.embedRunOf, List.range_eq_range']

/-- A CANCEL sampled 1 with work left ends `embed` (spec R302, R328). -/
theorem embed_cancelled {s : State} {t : Slot} {payload : List Byte} {n : Nat} (hready : s.hostReady t = true)
    (hwf : s.image.plane.wf = true) (hfits : payload.length + 4 ≤ lumaBlocks s.image.frame t * s.agent.config.k / 8)
    (hn : n < s.pairsIn t) (hcancel : s.notCancelled n = true) (hsample : s.port.cancel.getD n false = true)
    (hleft : (s.embedRunOf t 0 n (bytesToBits (frameBytes payload))).2.1 ≠ []) :
    ∃ w context, exec (.embed payload) s = .next w ∧ w.agent.status = .failed .cancelled context ∧
      ((s.embedRunOf t 0 n (bytesToBits (frameBytes payload))).2.1 = bytesToBits (frameBytes payload) →
        w.image = s.image ∧ w.status = s.status) ∧
      ((s.embedRunOf t 0 n (bytesToBits (frameBytes payload))).2.1 ≠ bytesToBits (frameBytes payload) →
        w.image = Image.reset ∧ w.status = Status.reset) := by
  obtain ⟨r, hr⟩ := Nat.exists_eq_add_of_lt hn
  obtain ⟨u, hu, hrun⟩ := embed_run_part n (r + 1) hready hwf hfits hr.symm hcancel
  have hhead : u.port.cancel.headD false = true := by
    rw [hu.cancel hleft, List.headD_eq_head?_getD, List.head?_drop]
    exact hsample
  have heven := length_frameBits_even payload
  obtain ⟨j, hj⟩ := embedRun_left s.agent.config ((List.range' 0 n).map (s.pairOf t)) (bytesToBits (frameBytes payload))
  have hlen : (s.embedRunOf t 0 n (bytesToBits (frameBytes payload))).2.1.length % 2 = 0 := by
    rw [State.embedRunOf, hj, List.length_drop]
    omega
  match hbits : (s.embedRunOf t 0 n (bytesToBits (frameBytes payload))).2.1 with
  | [] => exact absurd hbits hleft
  | [b] =>
    rw [hbits] at hlen
    exact absurd hlen (by simp)
  | b1 :: b2 :: rest =>
    rw [← hbits]
    rw [hbits, embedFrom_run_cancelled t n b1 b2 rest _ _ r hhead, ← hbits] at hrun
    exact hu.stopped (v := u.sampled) rfl rfl hrun

/-! Pairs of which none is passed over. -/

theorem embedRun_of_ne_none {cfg : AgentConfig} (hskip : cfg.skipZero = false) (ps : List (Int × Int)) :
    ∀ bits : List Bool, bits.length = 2 * ps.length →
      (∀ p ∈ ps, ∀ b1 b2, embedPair cfg.delta p.1 p.2 b1 b2 ≠ none) →
      (embedRun cfg ps bits).2.1 = [] ∧ ∀ i p, ps[i]? = some p →
        (embedRun cfg ps bits).1[i]? =
          embedPair cfg.delta p.1 p.2 (bits.getD (2 * i) false) (bits.getD (2 * i + 1) false) := by
  induction ps with
  | nil =>
    intro bits hlen _
    obtain rfl := List.eq_nil_of_length_eq_zero hlen
    exact ⟨rfl, fun i p h => nomatch h⟩
  | cons p ps ih =>
    intro bits hlen hsome
    match bits with
    | [] => exact absurd hlen (by rw [List.length_cons, List.length_nil]; omega)
    | [b] => exact absurd hlen (by simp only [List.length_cons, List.length_nil]; omega)
    | b1 :: b2 :: rest =>
      obtain ⟨v, hv⟩ := Option.ne_none_iff_exists'.mp (hsome p List.mem_cons_self b1 b2)
      obtain ⟨hleft, hpairs⟩ := ih rest (by simp only [List.length_cons] at hlen; omega)
        fun q hq => hsome q (List.mem_cons_of_mem p hq)
      rw [embedRun_cons, hskip, Bool.false_and, if_neg Bool.false_ne_true, hv]
      refine ⟨hleft, fun i q hq => ?_⟩
      cases i with
      | zero =>
        obtain rfl := Option.some.inj hq
        exact hv.symm
      | succ i => exact hpairs i q hq

/-- There are four pairs for each byte that fits (spec R293, R301). -/
theorem four_mul_le_pairsIn {s : State} {t : Slot} {n : Nat} (grid : PairGrid s.image.frame t s.agent.config.k)
    (h : n ≤ lumaBlocks s.image.frame t * s.agent.config.k / 8) : 4 * n ≤ s.pairsIn t := by
  obtain ⟨half, hhalf⟩ := Nat.dvd_of_mod_eq_zero grid.even
  rw [State.pairsIn, pairCount]
  rw [hhalf] at h ⊢
  rw [Nat.mul_left_comm] at h
  rw [Nat.mul_div_cancel_left _ (by decide)]
  generalize lumaBlocks s.image.frame t * half = blocks at h ⊢
  omega

/-- `embed` of bits that all find a pair (spec R302). -/
theorem exec_embed_ok {s u : State} {t : Slot} {payload : List Byte} {m : Nat} {bits : List Bool}
    (h : s.Embedded u t 0 m bits) (hrun : (embed payload).run s = .ok () u) :
    exec (.embed payload) s = .next { u.returning .none with agent := { s.agent with status := .ok } } := by
  rw [exec_embed, runHost_ok _ hrun, h.kept.agent]

/-- Settles O54: the pair loop is `embedRun`, and pairs inside the range are never passed over. -/
theorem embedModulatesTheFirstPairs : Obligations.EmbedModulatesTheFirstPairs := by
  refine ⟨fun s payload h => runHost_notRun h, fun s t payload hready hwf hskip hfits hlen hcancel hinside => ?_,
    fun s t payload hready hlarge => ?_, fun s t payload hready hwf hfits hlen hcancel => ?_⟩
  · have grid := PairGrid.of_hostReady hready
    obtain ⟨r, hr⟩ := Nat.exists_eq_add_of_le (four_mul_le_pairsIn grid hfits)
    obtain ⟨u, hu, hrun⟩ := embed_run_part (4 * (payload.length + 4)) r hready hwf hfits hr.symm hcancel
    obtain ⟨-, hlegal, -⟩ := State.hostReady_iff.mp hready
    obtain ⟨hdelta, -⟩ := (AgentConfig.legal_iff _).mp hlegal
    obtain ⟨hleft, hpairs⟩ := embedRun_of_ne_none (cfg := s.agent.config) hskip
      ((List.range' 0 (4 * (payload.length + 4))).map (s.pairOf t)) (bytesToBits (frameBytes payload))
      (by rw [length_bytesToBits_frameBytes, List.length_map, List.length_range']; omega)
      (fun p hp b1 b2 => by
        obtain ⟨i, hi, rfl⟩ := List.mem_map.mp hp
        obtain ⟨h1, h2, h3, h4⟩ := hinside i (by have := (List.mem_range'_1.mp hi).2; omega)
        exact embedPair_isSome hdelta h1 h2 h3 h4)
    rw [State.embedRunOf, hleft, embedFrom_run_nil] at hrun
    refine ⟨_, exec_embed_ok hu hrun, rfl, hu.kept.image, fun idx hidx => ?_, fun a ha => hu.others a fun i _ hi hcell => ?_,
      hu.kept.status, hu.kept.reader, hu.kept.writer, hu.kept.work⟩
    · have hget : ∀ (w : State),
          ((List.range' 0 (4 * (payload.length + 4))).map (w.pairOf t))[idx]? = some (w.pairOf t idx) := by
        intro w
        rw [List.getElem?_map, List.getElem?_range' hidx, Option.map_some, Nat.one_mul, Nat.zero_add]
      have hpair := hpairs idx _ (hget s)
      have hafter := hu.pairs
      rw [State.embedRunOf] at hafter
      rw [← hafter, hget u] at hpair
      have hconfig :
          ({ u.returning .none with agent := { s.agent with status := .ok } } : State).pairOf t idx = u.pairOf t idx := by
        rw [State.pairOf, State.pairOf, hu.kept.agent]
        rfl
      rw [hconfig]
      exact hpair
    · obtain ⟨h1, h2⟩ := ha i (by omega)
      exact hcell.elim h1 h2
  · refine ⟨_, (exec_embed payload s).trans (runHost_error _ ((embed_run payload hready).trans (if_pos hlarge))), rfl, 0, rfl⟩
  · obtain ⟨u, hu, hrun⟩ := embed_run_part (s.pairsIn t) 0 hready hwf hfits rfl hcancel
    intro bits run
    have hrunOf : s.embedRunOf t 0 (s.pairsIn t) bits = run := s.embedRunOf_zero t _ bits
    refine ⟨fun hleft => ?_, fun hleft => ?_⟩
    · rw [hrunOf, hleft, embedFrom_run_nil] at hrun
      refine ⟨_, exec_embed_ok hu hrun, rfl, hu.kept.image, ?_, fun a ha => hu.others a fun i _ hi hcell => ?_,
        hu.kept.status, hu.kept.reader, hu.kept.writer, hu.kept.work⟩
      · rw [← hrunOf, ← hu.pairs, List.range_eq_range']
        refine List.map_congr_left fun i _ => ?_
        rw [State.pairOf, State.pairOf, hu.kept.agent]
        rfl
      · obtain ⟨h1, h2⟩ := ha i (by omega)
        exact hcell.elim h1 h2
    · rw [embedFrom_run_zero t _ _ _ u (by rw [hrunOf]; exact hleft)] at hrun
      rw [← hrunOf] at hleft ⊢
      cases hclamped : (s.embedRunOf t 0 (s.pairsIn t) bits).2.2 with
      | true =>
        rw [hclamped, if_pos rfl] at hrun
        exact hu.stopped rfl rfl hrun
      | false =>
        rw [hclamped, if_neg Bool.false_ne_true] at hrun
        exact hu.stopped rfl rfl hrun

end Sys2Proof.Machine
end

section
/-! PROOFS of the host agent: `extract` (spec R290, R291, R298, R299, R303), and what ENCODE and `CANCEL` do (R240, R328). -/

namespace Sys2Proof.Machine

/-- The state after `m` samples of `CANCEL` (spec R328). -/
def State.skip (s : State) (m : Nat) : State := { s with port := { s.port with cancel := s.port.cancel.drop m } }

theorem State.sampled_skip (s : State) (m : Nat) : s.sampled.skip m = s.skip (m + 1) := by
  rw [State.skip, State.skip, State.sampled]
  simp only [List.drop_tail]

/-- The pairs that carry bits among `m` from index `idx` on (spec R298). -/
def State.carriersFrom (s : State) (t : Slot) (idx m : Nat) : List Nat :=
  (List.range' idx m).filter fun idx => !(s.agent.config.skipZero && s.pairOf t idx == (0, 0))

theorem State.carriers_eq (s : State) (t : Slot) : s.carriers t = s.carriersFrom t 0 (s.pairsIn t) := by
  rw [State.carriers, State.carriersFrom, List.range_eq_range']

theorem State.carriersFrom_succ (s : State) (t : Slot) (idx m : Nat) :
    s.carriersFrom t idx (m + 1) =
      if (s.agent.config.skipZero && s.pairOf t idx == (0, 0)) = true then s.carriersFrom t (idx + 1) m
      else idx :: s.carriersFrom t (idx + 1) m := by
  rw [State.carriersFrom, List.range'_succ, List.filter_cons]
  cases s.agent.config.skipZero && s.pairOf t idx == (0, 0) <;> rfl

theorem State.carriersFrom_add (s : State) (t : Slot) (idx m r : Nat) :
    s.carriersFrom t idx (m + r) = s.carriersFrom t idx m ++ s.carriersFrom t (idx + m) r := by
  rw [State.carriersFrom, State.carriersFrom, State.carriersFrom, ← List.filter_append, List.range'_append_1]

theorem State.carriedBits_cons (s : State) (t : Slot) (idx : Nat) (idxs : List Nat) :
    s.carriedBits t (idx :: idxs) = s.carriedBits t [idx] ++ s.carriedBits t idxs := by
  simp only [State.carriedBits, List.flatMap_cons, List.flatMap_nil, List.append_nil]

theorem State.length_carriedBits (s : State) (t : Slot) (idxs : List Nat) :
    (s.carriedBits t idxs).length = 2 * idxs.length :=
  length_flatMap_const (k := 2) (fun _ => rfl) idxs

/-! The pair loop. -/

theorem takePairs_run_zero (t : Slot) (idx : Nat) (acc : List Bool) (n : Nat) (s : State) :
    (takePairs t 0 idx acc n).run s = .ok (acc, idx) s := by cases n <;> rfl

section
variable (t : Slot) (need idx : Nat) (acc : List Bool) (n : Nat) {s : State}

theorem takePairs_run_cancelled (h : s.port.cancel.headD false = true) :
    (takePairs t (need + 1) idx acc (n + 1)).run s = .error (.fail .cancelled idx false) s.sampled := by
  rw [takePairs, if_neg (Nat.succ_ne_zero need), HostProc.bind_run_ok (hostCancelled_run s), h]
  rfl

/-- A pair that `CANCEL` lets the host look at (spec R298, R303). -/
theorem takePairs_run_succ (h : s.port.cancel.headD false = false) :
    (takePairs t (need + 1) idx acc (n + 1)).run s =
      if (s.agent.config.skipZero && s.pairOf t idx == (0, 0)) = true then
        (takePairs t (need + 1) (idx + 1) acc n).run s.sampled
      else (takePairs t need (idx + 1) (acc ++ s.carriedBits t [idx]) n).run s.sampled := by
  rw [takePairs, if_neg (Nat.succ_ne_zero need), HostProc.bind_run_ok (hostCancelled_run s), h, if_neg Bool.false_ne_true,
    HostProc.bind_run_ok (readPair_run t idx s.sampled), HostProc.get_bind_run]
  dsimp only
  rw [zeroPair_eq]
  have hpair : s.sampled.pairOf t idx = s.pairOf t idx := rfl
  have hconfig : s.sampled.agent.config = s.agent.config := rfl
  rw [hpair, hconfig]
  split <;> rfl

end

/-- Where the pairs do not carry enough, the loop goes on behind them (spec R303). -/
theorem takePairs_run_short {t : Slot} (m : Nat) : ∀ (s : State) (need idx : Nat) (acc : List Bool) (r : Nat),
    s.notCancelled m = true → (s.carriersFrom t idx m).length < need →
    (takePairs t need idx acc (m + r)).run s =
      (takePairs t (need - (s.carriersFrom t idx m).length) (idx + m)
        (acc ++ s.carriedBits t (s.carriersFrom t idx m)) r).run (s.skip m) := by
  induction m with
  | zero =>
    intro s need idx acc r _ _
    rw [Nat.zero_add]
    exact congrArg (fun acc' => (takePairs t need idx acc' r).run s) (List.append_nil acc).symm
  | succ m ih =>
    intro s need idx acc r hcancel hlt
    obtain ⟨hhead, htail⟩ := notCancelled_succ.mp hcancel
    obtain ⟨need, rfl⟩ := Nat.exists_eq_succ_of_ne_zero (Nat.zero_lt_of_lt hlt).ne'
    rw [Nat.add_right_comm m 1 r, Nat.succ_eq_add_one, takePairs_run_succ t need idx acc (m + r) hhead,
      show idx + (m + 1) = idx + 1 + m by omega, ← State.sampled_skip]
    rw [State.carriersFrom_succ] at hlt ⊢
    by_cases hzero : (s.agent.config.skipZero && s.pairOf t idx == (0, 0)) = true
    · rw [if_pos hzero] at hlt ⊢
      rw [if_pos hzero, ih s.sampled (need + 1) (idx + 1) acc r htail hlt]
      rfl
    · rw [if_neg hzero] at hlt ⊢
      rw [if_neg hzero, ih s.sampled need (idx + 1) _ r htail (Nat.lt_of_succ_lt_succ hlt), List.length_cons,
        Nat.add_sub_add_right, s.carriedBits_cons t idx (s.carriersFrom t (idx + 1) m), ← List.append_assoc]
      rfl

/-- Where the pairs carry enough, the loop ends behind the last one it needs (spec R303). -/
theorem takePairs_run_full {t : Slot} (n : Nat) : ∀ (s : State) (need idx : Nat) (acc : List Bool) (r : Nat),
    s.notCancelled n = true → need ≤ (s.carriersFrom t idx n).length →
    ∃ m, m ≤ n ∧ (s.carriersFrom t idx m).length = need ∧
      (takePairs t need idx acc (n + r)).run s =
        .ok (acc ++ s.carriedBits t (s.carriersFrom t idx m), idx + m) (s.skip m) := by
  induction n with
  | zero =>
    intro s need idx acc r _ hle
    obtain rfl := Nat.le_zero.mp hle
    refine ⟨0, le_rfl, rfl, (takePairs_run_zero t idx acc _ s).trans ?_⟩
    exact congrArg (fun acc' => EStateM.Result.ok (acc', idx) s) (List.append_nil acc).symm
  | succ n ih =>
    intro s need idx acc r hcancel hle
    obtain ⟨hhead, htail⟩ := notCancelled_succ.mp hcancel
    cases need with
    | zero =>
      refine ⟨0, Nat.zero_le _, rfl, (takePairs_run_zero t idx acc _ s).trans ?_⟩
      exact congrArg (fun acc' => EStateM.Result.ok (acc', idx) s) (List.append_nil acc).symm
    | succ need =>
      rw [Nat.add_right_comm n 1 r, takePairs_run_succ t need idx acc (n + r) hhead]
      rw [State.carriersFrom_succ] at hle
      by_cases hzero : (s.agent.config.skipZero && s.pairOf t idx == (0, 0)) = true
      · rw [if_pos hzero] at hle ⊢
        obtain ⟨m, hm, hlen, hrun⟩ := ih s.sampled (need + 1) (idx + 1) acc r htail hle
        refine ⟨m + 1, Nat.succ_le_succ hm, ?_, ?_⟩
        · rw [State.carriersFrom_succ, if_pos hzero]
          exact hlen
        · rw [hrun, State.carriersFrom_succ, if_pos hzero, State.sampled_skip, Nat.add_assoc, Nat.add_comm 1 m]
          rfl
      · rw [if_neg hzero] at hle ⊢
        obtain ⟨m, hm, hlen, hrun⟩ := ih s.sampled need (idx + 1) (acc ++ s.carriedBits t [idx]) r htail
          (Nat.le_of_succ_le_succ hle)
        refine ⟨m + 1, Nat.succ_le_succ hm, ?_, ?_⟩
        · rw [State.carriersFrom_succ, if_neg hzero, List.length_cons]
          exact congrArg Nat.succ hlen
        · rw [hrun, State.carriersFrom_succ, if_neg hzero, State.sampled_skip, Nat.add_assoc, Nat.add_comm 1 m,
            State.carriedBits_cons s t idx (s.carriersFrom t (idx + 1) m), ← List.append_assoc]
          rfl

theorem takePairs_run_none (t : Slot) {need : Nat} (h : need ≠ 0) (idx : Nat) (acc : List Bool) (s : State) :
    (takePairs t need idx acc 0).run s = .error (.fail .payloadTruncated 0 false) s := by
  rw [takePairs, if_neg h]
  rfl

/-- Pairs that carry too little (spec R303). -/
theorem takePairs_run_truncated {t : Slot} {s : State} {need idx n : Nat} (acc : List Bool) (hcancel : s.notCancelled n = true)
    (h : (s.carriersFrom t idx n).length < need) :
    (takePairs t need idx acc n).run s = .error (.fail .payloadTruncated 0 false) (s.skip n) := by
  have hshort := takePairs_run_short n s need idx acc 0 hcancel h
  rw [Nat.add_zero] at hshort
  rw [hshort, takePairs_run_none t (by omega)]

/-- A sample that is 1 while more is needed (spec R303, R328). -/
theorem takePairs_run_sampled {t : Slot} {s : State} {need idx m : Nat} (acc : List Bool) (r : Nat)
    (hcancel : s.notCancelled m = true) (hsample : s.port.cancel.getD m false = true)
    (h : (s.carriersFrom t idx m).length < need) :
    (takePairs t need idx acc (m + (r + 1))).run s = .error (.fail .cancelled (idx + m) false) (s.skip m).sampled := by
  have hhead : (s.skip m).port.cancel.headD false = true := by
    show (s.port.cancel.drop m).headD false = true
    rw [List.headD_eq_head?_getD, List.head?_drop]
    exact hsample
  obtain ⟨k, hk⟩ := Nat.exists_eq_succ_of_ne_zero (Nat.sub_ne_zero_of_lt h)
  rw [takePairs_run_short m s need idx acc (r + 1) hcancel h, hk]
  exact takePairs_run_cancelled t k (idx + m) _ r hhead

/-! Bytes from bits. -/

theorem length_bitsToBytes (n : Nat) : ∀ bits : List Bool, (bitsToBytes bits n).length = n := by
  induction n with
  | zero => exact fun _ => rfl
  | succ n ih => exact fun bits => congrArg Nat.succ (ih _)

theorem bytesToBits_bitsToBytes (n : Nat) : ∀ bits : List Bool, bits.length = 8 * n →
    bytesToBits (bitsToBytes bits n) = bits := by
  induction n with
  | zero =>
    intro bits h
    obtain rfl := List.eq_nil_of_length_eq_zero h
    rfl
  | succ n ih =>
    intro bits h
    rw [bitsToBytes, bytesToBits_cons, natToBits_byte (by rw [List.length_take]; omega),
      ih _ (by rw [List.length_drop]; omega), List.take_append_drop]

/-! `extract`. -/

theorem exec_extract (s : State) : exec .extract s = runHost Value.bytes extract s := by rfl

section
variable {s u : State} {t : Slot}

theorem extract_run_error (hready : s.hostReady t = true) {e : HostStop}
    (h : (takePairs t 16 0 [] (s.pairsIn t)).run s = .error e u) :
    extract.run s = .error e u := by
  rw [extract, HostProc.bind_run_ok (hostTarget_run_ready hready), HostProc.get_bind_run]
  exact HostProc.bind_run_error h

/-- `extract` behind the length field (spec R303). -/
theorem extract_run_ok (hready : s.hostReady t = true) {bits : List Bool} {idx : Nat}
    (h : (takePairs t 16 0 [] (s.pairsIn t)).run s = .ok (bits, idx) u) :
    extract.run s =
      if 2 * (s.pairsIn t - 16) < 8 * bitsToNat bits then .error (.fail .invalidLength 0 false) u
      else (takePairs t (4 * bitsToNat bits) idx [] (s.pairsIn t - idx) >>= fun body =>
        (pure (bitsToBytes body.1 (bitsToNat bits)) : HostProc (List Byte))).run u := by
  rw [extract, HostProc.bind_run_ok (hostTarget_run_ready hready), HostProc.get_bind_run]
  refine (HostProc.bind_run_ok h).trans ?_
  dsimp only
  rw [State.pairsIn]
  split <;> rfl

/-- The length field (spec R300, R303). -/
theorem extract_header {n r : Nat} (hn : n + r = s.pairsIn t) (hcancel : s.notCancelled n = true)
    (h : 16 ≤ (s.carriersFrom t 0 n).length) :
    ∃ m, m ≤ n ∧ (s.carriersFrom t 0 m).length = 16 ∧ (s.carriers t).take 16 = s.carriersFrom t 0 m ∧
      (s.carriers t).drop 16 = s.carriersFrom t m (s.pairsIn t - m) ∧
      (takePairs t 16 0 [] (s.pairsIn t)).run s = .ok (s.carriedBits t ((s.carriers t).take 16), m) (s.skip m) := by
  obtain ⟨m, hm, hlen, hrun⟩ := takePairs_run_full n s 16 0 [] r hcancel h
  have hsplit : s.carriers t = s.carriersFrom t 0 m ++ s.carriersFrom t m (s.pairsIn t - m) := by
    have hadd := s.carriersFrom_add t 0 m (s.pairsIn t - m)
    rw [Nat.add_sub_cancel' (by omega), Nat.zero_add] at hadd
    rw [State.carriers_eq, hadd]
  have htake : (s.carriers t).take 16 = s.carriersFrom t 0 m := by rw [hsplit, List.take_left' hlen]
  refine ⟨m, hm, hlen, htake, by rw [hsplit, List.drop_left' hlen], ?_⟩
  rw [htake, ← hn, hrun, List.nil_append, Nat.zero_add]

end

theorem State.skip_notCancelled {s : State} {m n : Nat} (h : s.notCancelled n = true) :
    (s.skip m).notCancelled (n - m) = true := by
  rw [State.notCancelled, List.all_eq_true] at h ⊢
  intro c hc
  refine h c ?_
  rw [State.skip, ← List.drop_take] at hc
  exact List.mem_of_mem_drop hc

theorem exec_extract_fail {s u : State} {kind : ErrKind} {context : Nat}
    (h : extract.run s = .error (.fail kind context false) u) :
    exec .extract s = .next (takeHostStop (.fail kind context false) u) :=
  (exec_extract s).trans (runHost_error _ h)

/-- Settles O55, by the carrying pairs that the loop looks at. -/
theorem extractReadsTheFramedBytes : Obligations.ExtractReadsTheFramedBytes := by
  refine ⟨fun s h => runHost_notRun h, fun s t hready hcancel => ⟨fun hshort => ?_, fun henough => ?_⟩⟩
  · rw [State.carriers_eq] at hshort
    exact ⟨_, exec_extract_fail (extract_run_error hready (takePairs_run_truncated [] hcancel hshort)), rfl, 0, rfl⟩
  · intro len
    rw [State.carriers_eq] at henough
    obtain ⟨m, hm, hlen16, htake, hdrop, hheader⟩ := extract_header (n := s.pairsIn t) (r := 0) rfl hcancel henough
    have hextract := extract_run_ok hready hheader
    have hcount : (s.carriers t).length = 16 + (s.carriersFrom t m (s.pairsIn t - m)).length := by
      rw [← hdrop, List.length_drop, State.carriers_eq]
      omega
    refine ⟨fun hlarge => ?_, fun hfits hshort => ?_, fun hfits hall => ?_⟩
    · rw [if_pos hlarge] at hextract
      exact ⟨_, exec_extract_fail hextract, rfl, 0, rfl⟩
    · rw [if_neg (Nat.not_lt.mpr hfits), HostProc.bind_run_error (takePairs_run_truncated (s := s.skip m) []
        (State.skip_notCancelled hcancel) (by show (s.carriersFrom t m _).length < _; omega))] at hextract
      exact ⟨_, exec_extract_fail hextract, rfl, 0, rfl⟩
    · obtain ⟨b, hb, hblen, hbody⟩ := takePairs_run_full (s.pairsIn t - m) (s.skip m) (4 * len) m [] 0
        (State.skip_notCancelled hcancel) (by show _ ≤ (s.carriersFrom t m _).length; omega)
      have htaken : ((s.carriers t).drop 16).take (4 * len) = s.carriersFrom t m b := by
        have hadd := s.carriersFrom_add t m b (s.pairsIn t - m - b)
        rw [Nat.add_sub_cancel' hb] at hadd
        rw [hdrop, hadd]
        exact List.take_left' hblen
      rw [Nat.add_zero] at hbody
      rw [if_neg (Nat.not_lt.mpr hfits), HostProc.bind_run_ok hbody] at hextract
      refine ⟨_, bitsToBytes (s.carriedBits t (s.carriersFrom t m b)) len, (exec_extract s).trans (runHost_ok _ hextract), rfl,
        rfl, length_bitsToBytes _ _, ?_, rfl, rfl, rfl, rfl, rfl⟩
      rw [htaken]
      refine bytesToBits_bitsToBytes len _ ?_
      rw [State.length_carriedBits, show (s.carriersFrom t m b).length = 4 * len from hblen]
      omega

/-! `CANCEL` in `extract`. -/

/-- The carrying pairs in front of a pair (spec R298, R303). -/
theorem State.length_carriers_lt {s : State} {t : Slot} {n : Nat} (hn : n ≤ s.pairsIn t) :
    ((s.carriers t).filter (· < n)).length = (s.carriersFrom t 0 n).length := by
  have hadd := s.carriersFrom_add t 0 n (s.pairsIn t - n)
  rw [Nat.add_sub_cancel' hn, Nat.zero_add] at hadd
  rw [State.carriers_eq, hadd, List.filter_append]
  have hfront : (s.carriersFrom t 0 n).filter (· < n) = s.carriersFrom t 0 n := List.filter_eq_self.mpr fun i hi => by
    have := List.mem_range'_1.mp (List.mem_of_mem_filter hi)
    exact decide_eq_true (by omega)
  have hback : (s.carriersFrom t n (s.pairsIn t - n)).filter (· < n) = [] := List.filter_eq_nil_iff.mpr fun i hi h => by
    have := List.mem_range'_1.mp (List.mem_of_mem_filter hi)
    have := of_decide_eq_true h
    omega
  rw [hfront, hback, List.append_nil]

theorem extract_cancelled {s : State} {t : Slot} {n : Nat} (hready : s.hostReady t = true) (hn : n < s.pairsIn t)
    (hcancel : s.notCancelled n = true) (hsample : s.port.cancel.getD n false = true)
    (h : (s.carriersFrom t 0 n).length < 16 ∨
      (8 * bitsToNat (s.carriedBits t ((s.carriers t).take 16)) ≤ 2 * (s.pairsIn t - 16) ∧
        (s.carriersFrom t 0 n).length < 16 + 4 * bitsToNat (s.carriedBits t ((s.carriers t).take 16)))) :
    ∃ context u, extract.run s = .error (.fail .cancelled context false) u ∧ u.image = s.image ∧ u.status = s.status := by
  obtain ⟨r, hr⟩ := Nat.exists_eq_add_of_lt hn
  by_cases hshort : (s.carriersFrom t 0 n).length < 16
  · have hstop := takePairs_run_sampled (t := t) [] r hcancel hsample hshort
    rw [← Nat.add_assoc, ← hr] at hstop
    exact ⟨_, _, extract_run_error hready hstop, rfl, rfl⟩
  · obtain ⟨hfits, hmore⟩ := h.resolve_left hshort
    obtain ⟨m, hm, hlen16, htake, hdrop, hheader⟩ := extract_header (n := n) (r := r + 1) hr.symm hcancel
      (Nat.not_lt.mp hshort)
    have hadd := s.carriersFrom_add t 0 m (n - m)
    rw [Nat.add_sub_cancel' hm, Nat.zero_add] at hadd
    have hneed : ((s.skip m).carriersFrom t m (n - m)).length < 4 * bitsToNat (s.carriedBits t ((s.carriers t).take 16)) := by
      rw [hadd, List.length_append, hlen16] at hmore
      exact Nat.lt_of_add_lt_add_left hmore
    have hbody := takePairs_run_sampled (s := s.skip m) (t := t) [] r (State.skip_notCancelled hcancel)
      (by
        show (s.port.cancel.drop m).getD (n - m) false = true
        rw [List.getD_eq_getElem?_getD, List.getElem?_drop, Nat.add_sub_cancel' hm]
        exact hsample) hneed
    have hrest : n - m + (r + 1) = s.pairsIn t - m := by omega
    rw [hrest] at hbody
    refine ⟨_, _, (extract_run_ok hready hheader).trans ((if_neg (Nat.not_lt.mpr hfits)).trans
      (HostProc.bind_run_error hbody)), rfl, rfl⟩

/-- Settles O48: two encodes side by side, and the samples of `CANCEL` that a run takes. -/
theorem encodeOnlyReadsTheImage : Obligations.EncodeOnlyReadsTheImage := by
  refine ⟨fun s t h => exec_encode_image h, fun s1 s2 t1 t2 hp1 hp2 himage hcancel h1 h2 =>
    exec_encode_alike hp1 hp2 himage hcancel h1 h2, fun s t h => exec_encode_out h,
    fun s t sc n hlast hn h hcancel => exec_decodeScan_cancelled hlast hn h hcancel,
    fun s t n hscans hn h hcancel => exec_encodeScan_cancelled hscans hn h hcancel,
    fun s t i hi hfailed hrefused h hstatus => exec_scan_sampled hi hfailed hrefused h hstatus,
    fun s t payload n hready hwf hfits hn hcancel hsample => ?_, fun s t n hready hn hcancel hsample => ?_⟩
  · intro bits left hleft
    rw [show left = (s.embedRunOf t 0 n bits).2.1 from congrArg (·.2.1) (s.embedRunOf_zero t n bits).symm] at hleft ⊢
    exact embed_cancelled hready hwf hfits hn hcancel hsample hleft
  · intro seen len hneed
    rw [show seen = _ from State.length_carriers_lt hn.le] at hneed
    obtain ⟨context, u, hrun, himage, hstatus⟩ := extract_cancelled hready hn hcancel hsample hneed
    exact ⟨_, context, exec_extract_fail hrun, rfl, himage, hstatus⟩

end Sys2Proof.Machine
end
